-- ==== Sys2Proof/Word.lean ====
section
/-! DEFINITION. The words of the Ilterna CL-12: a byte of the serial line and a value of the time counter. -/
namespace Sys2Proof

/-- One byte of a frame (R181). -/
abbrev Byte := BitVec 8

/-- A value of the 32-bit millisecond time counter (R1). -/
abbrev Time := BitVec 32

end Sys2Proof
end

