-- ==== Sys2Proof/Syntax.lean ====
section
/-! DEFINITION. The commands of the CL-12: one constructor per row of spec/opcode_table.json. A request carries the TAG of its
frame (R181) and then its values at the widths of R196; a value that names no member of its list is still a value. -/
namespace Sys2Proof

/-- The commands (opcode_table.json), in the table's order. -/
inductive Instr where
  /-- POWER_ON (R180): application of supply; bit n of `auxLevels` is set when AUXn stands HIGH then (R159). -/
  | powerOn (auxLevels : BitVec 4)
  /-- SCAN_TIMER_EXPIRY (R5). -/
  | scanTimerExpiry
  /-- SCAN_COMPLETION (R2): `raw` holds the raw counts of channels 0 to 11. -/
  | scanCompletion (raw : Vector (BitVec 16) 12)
  /-- REGRIP_TIMER_EXPIRY (R61). -/
  | regripTimerExpiry
  /-- AUX_INPUT_CHANGE (R160): the input of AUX`line` goes to HIGH or LOW. -/
  | auxInputChange (line : Fin 4) (high : Bool)
  /-- AUX_DEBOUNCE_EXPIRY (R160) of AUX`line`. -/
  | auxDebounceExpiry (line : Fin 4)
  /-- SUPERVISION_TIMER_EXPIRY (R165). -/
  | supervisionTimerExpiry
  /-- FRAME_RECEIVED (R182): the bytes that arrived up to a frame's last CHECK byte. -/
  | frameReceived (bytes : List Byte)
  /-- FRAME_TIMEOUT (R183): the bytes that arrived before the pause (none when the receiver already holds them). -/
  | frameTimeout (bytes : List Byte)
  /-- LINE_BREAK_END (R190): the receive line returns to mark after `heldMs` ms at space. -/
  | lineBreakEnd (heldMs : BitVec 32)
  /-- TRANSMIT_START (R188). -/
  | transmitStart
  /-- FRAME_TRANSMITTED (R188). -/
  | frameTransmitted
  /-- UNKNOWN_REQUEST (R186): a request whose code is not listed in R196. -/
  | unknownRequest (tag code : Byte) (values : List Byte)
  /-- SET_SCAN (R15). -/
  | setScan (tag mode period : Byte)
  /-- SET_CHANNEL (R16). -/
  | setChannel (tag channel level : Byte) (lower upper : BitVec 16)
  /-- SCAN_ONCE (R17). -/
  | scanOnce (tag : Byte)
  /-- GET_SAMPLE (R19). -/
  | getSample (tag : Byte)
  /-- SET_CRANE (R22): Lb, Ls, H, Ap, Ar. -/
  | setCrane (tag : Byte) (lb ls h ap ar : BitVec 16)
  /-- GET_POSE (R29). -/
  | getPose (tag : Byte)
  /-- TABLE_BEGIN (R31). -/
  | tableBegin (tag : Byte)
  /-- TABLE_WRITE (R32): a row number and its cells, each k, e, rated load. -/
  | tableWrite (tag row : Byte) (cells : List (BitVec 16 × BitVec 16 × BitVec 16))
  /-- TABLE_END (R33). -/
  | tableEnd (tag : Byte) (check : BitVec 16)
  /-- TABLE_READ (R35). -/
  | tableRead (tag row : Byte)
  /-- SET_ZONE (R47, R48). -/
  | setZone (tag index : Byte) (sectorStart sectorEnd reachMin reachMax heightMin heightMax : BitVec 16) (kind fns : Byte)
  /-- CLEAR_ZONE (R49). -/
  | clearZone (tag index : Byte)
  /-- GET_ZONE (R50). -/
  | getZone (tag index : Byte)
  /-- SET_SORT (R70). -/
  | setSort (tag sort apply : Byte)
  /-- MARK (R72). -/
  | mark (tag : Byte)
  /-- SET_WEIGH (R78): the nine values of R77 in its order. -/
  | setWeigh (tag budget still : Byte) (tolerance motion grip release regrip trim tare : BitVec 16)
  /-- GET_WEIGH (R79). -/
  | getWeigh (tag : Byte)
  /-- WEIGH_FLUSH (R97). -/
  | weighFlush (tag : Byte)
  /-- WEIGH_DISCARD (R98). -/
  | weighDiscard (tag : Byte)
  /-- SET_PAYLOAD (R112). -/
  | setPayload (tag : Byte) (limit : BitVec 24)
  /-- TALLY_ADJUST (R114, R115): the amount is signed. -/
  | tallyAdjust (tag sort : Byte) (amount : BitVec 24)
  /-- TALLY_SET (R117): the bunk weights in sort order. -/
  | tallySet (tag : Byte) (weights : List (BitVec 24))
  /-- LOAD_CLOSE (R118). -/
  | loadClose (tag closeMode : Byte)
  /-- GET_TALLY (R123). -/
  | getTally (tag : Byte)
  /-- FETCH_RECORDS (R135). -/
  | fetchRecords (tag number : Byte)
  /-- SET_STREAM (R136). -/
  | setStream (tag mode threshold : Byte)
  /-- ZERO (R144). -/
  | zero (tag : Byte)
  /-- SPAN (R148). -/
  | span (tag : Byte) (mass : BitVec 16)
  /-- OP_ABORT (R142). -/
  | opAbort (tag : Byte)
  /-- GET_PERMITS (R158). -/
  | getPermits (tag : Byte)
  /-- SET_LINES (R162): mode and polarity of lines 0 to 3. -/
  | setLines (tag m0 p0 m1 p1 m2 p2 m3 p3 : Byte)
  /-- GET_LINES (R163). -/
  | getLines (tag : Byte)
  /-- SET_SUPERVISION (R167). -/
  | setSupervision (tag : Byte) (interval : BitVec 16)
  /-- RESUME (R167). -/
  | resume (tag : Byte)
  /-- SET_EVENTS (R176). -/
  | setEvents (tag mode : Byte) (mask : BitVec 16)
  /-- GET_EVENTS (R177). -/
  | getEvents (tag : Byte)
  /-- GET_DETAIL (R178). -/
  | getDetail (tag kind : Byte)
  /-- SET_LINK (R189). -/
  | setLink (tag speed keep : Byte)
  /-- RESET (R190). -/
  | reset (tag : Byte)
  /-- PING (R192). -/
  | ping (tag : Byte)
  /-- GET_STATUS (R193). -/
  | getStatus (tag : Byte)
  /-- LEN_OUT_OF_RANGE (R182): `len` is the byte received after a SYNC. -/
  | lenOutOfRange (len : Byte)
  deriving DecidableEq, Repr

end Sys2Proof
end

