-- ==== Sys2Proof/Decode.lean ====
section
/-! DEFINITION. The reading of a word by the bits of spec/opcode_table.json. No row of the table gives bits ("fields": [] in every
row, no "fixed"), so no word spells a command. -/
namespace Sys2Proof

/-- The command a word spells by the table's bits: none, for every word, since no row gives bits. -/
def decodeTableWord (_nbits _w : Nat) : Option Instr := none

end Sys2Proof
end

