-- ==== Sys2Proof/Config.lean ====
section
/-! DEFINITION. What one part fixes, and the free values: orders that the manual leaves open, and what the sensors give. -/
namespace Sys2Proof.Config

/-- The free values (log 8, log 9): the manual says 'in either order' and nothing in Lean can say which. The first argument is
the counter `State.free`, the second tells apart the choices made under one value of that counter. -/
opaque free : Nat → Nat → Nat

/-- The free value of a time of the last good frame that does not exist (log 17): the manual's details of SUPERVISION_WARN and
SUPERVISION_STOP give none. -/
opaque noGoodFrame : Nat

/-- The raw counts that the conversions of a scan give when the outside names none (log 3): the sensors are not the part's, so any
counts are possible. The first argument is the counter `State.free`, the second the channel. -/
opaque rawCounts : Nat → Nat → Nat

/-- The part code that PING returns (R192). -/
def partCode : Nat := 0x4C12

/-- The revision of the part this manual describes (R192). -/
def revision : Nat := 1

end Sys2Proof.Config
end

