-- ==== Sys2Proof/Machine/State.lean ====
section
/-! DEFINITION. The state of the CL-12, block by block as the manual describes it, and its value after power-on. Plain data. -/
namespace Sys2Proof.Machine

/-- One value for each of the six crane functions, in function order (R153). -/
structure PerFn (α : Type) where
  slew : α
  lift : α
  stick : α
  extend : α
  rotate : α
  grapple : α
  deriving DecidableEq, Repr

/-- The same value for every function. -/
def PerFn.const {α : Type} (a : α) : PerFn α := ⟨a, a, a, a, a, a⟩

/-! ### Scanner (chapter 1) -/

/-- Scanner mode (R5, R6). -/
inductive ScanMode where | auto | manual
  deriving DecidableEq, Repr

/-- Band state of a channel (R10): IN, LOW, HIGH. -/
inductive Band where | inside | low | high
  deriving DecidableEq, Repr

/-- The settings of a channel: conversion level (R3) and band (R10). -/
structure Channel where
  level : Fin 8
  lower : Int
  upper : Int
  deriving DecidableEq, Repr

/-- A scan in progress (R2): the levels it began with (R3), its start, and the value its start loaded into the scan timer (R26),
none for the scan of a SCAN_ONCE (R17). -/
structure ScanRun where
  levels : Vector (Fin 8) 12
  start : Time
  loaded : Option Nat
  deriving DecidableEq, Repr

/-- The latest scan (R14). -/
structure Scan where
  raw : Vector (BitVec 16) 12
  scaled : Vector Int 12
  band : Vector Band 12
  referenced : Bool
  time : Time
  deriving DecidableEq, Repr

/-- The scanner: mode, holding value of the scan period, scan timer (its expiry, none when stopped), channels, the scan in
progress, the latest scan. -/
structure Scanner where
  mode : ScanMode
  period : Nat
  timer : Option Time
  channels : Vector Channel 12
  running : Option ScanRun
  latest : Option Scan
  deriving DecidableEq, Repr

/-! ### Pose solver and geometry table (chapter 2) -/

/-- The crane constants (R21). -/
structure Crane where
  lb : Nat
  ls : Nat
  h : Nat
  ap : Nat
  ar : Nat
  deriving DecidableEq, Repr

/-- The geometry cell of a pose (R28). -/
inductive CellRef where
  | outOfTable
  | cell (row : Fin 16) (col : Fin 8)
  deriving DecidableEq, Repr

/-- A position: reach and height in mm (R25). -/
structure Position where
  reach : Int
  height : Int
  deriving DecidableEq, Repr

/-- The two rates in 0.1°/s (R26). -/
structure Rates where
  slew : Int
  boom : Int
  deriving DecidableEq, Repr

/-- A pose (R23). The three flags are the reasons of R27; the pose is valid when none is set. The cell stands with the position. -/
structure Pose where
  theta : Int
  slew : Int
  position : Option (Position × CellRef)
  rates : Option Rates
  unset : Bool
  band : Bool
  unreferenced : Bool
  time : Time
  deriving DecidableEq, Repr

/-- The values of the previous scan (R26): slew, θ, and the value loaded into the scan timer at its start. -/
structure PrevScan where
  slew : Int
  theta : Int
  loaded : Option Nat
  deriving DecidableEq, Repr

/-- The pose solver. -/
structure PoseSolver where
  crane : Option Crane
  latest : Option Pose
  prev : Option PrevScan
  deriving DecidableEq, Repr

/-- State of the geometry table (R30). -/
inductive TableState where | empty | loading | valid
  deriving DecidableEq, Repr

/-- One cell (R30): scale k, empty-crane equivalent e, rated load. -/
structure Cell where
  k : Nat
  e : Int
  rated : Nat
  deriving DecidableEq, Repr

/-- The geometry table (R30): a row is none while it holds no contents, so the rows that are some are the written-row set. -/
structure Geometry where
  state : TableState
  rows : Vector (Option (Vector Cell 8)) 16
  deriving DecidableEq, Repr

/-! ### Zone table (chapter 3) -/

/-- Kind of a zone entry (R38); bit n of the function set names function n. -/
inductive ZoneKind where
  | weigh
  | bunk
  | slow (fns : BitVec 6)
  | hold (fns : BitVec 6)
  deriving DecidableEq, Repr

/-- The contents of an IN USE entry (R38). -/
structure Zone where
  sectorStart : Nat
  sectorEnd : Nat
  reachMin : Int
  reachMax : Int
  heightMin : Int
  heightMax : Int
  kind : ZoneKind
  deriving DecidableEq, Repr

/-- Membership result (R42). -/
inductive Membership where | inside | outside | notJudged
  deriving DecidableEq, Repr

/-- A zone entry (R38, R42, R44): FREE when it has no contents. -/
structure ZoneEntry where
  contents : Option Zone
  result : Membership
  edited : Bool
  deriving DecidableEq, Repr

/-- A permit level (R153). As a contribution (R154), `free` is the manual's 'none'. -/
inductive Level where | free | slow | hold
  deriving DecidableEq, Repr

/-- The membership summary (R43), and the count of SLOW and HOLD entries INSIDE (R46). -/
structure Summary where
  weigh : Bool
  bunk : Bool
  levels : PerFn Level
  inside : Nat
  permitInside : Nat
  deriving DecidableEq, Repr

/-- The zone table. -/
structure ZoneTable where
  entries : Vector ZoneEntry 16
  summary : Option Summary
  deriving DecidableEq, Repr

/-! ### Lift tracker (chapter 4) -/

/-- Origin or destination (R56). -/
inductive Place where | bunk | field
  deriving DecidableEq, Repr

/-- The lift in progress (R56); `sort` counts from 0. -/
structure Lift where
  origin : Place
  sort : Fin 12
  gripTime : Time
  regrips : Nat
  marked : Bool
  overloadSeen : Bool
  deriving DecidableEq, Repr

/-- What a release scan latches (R58): destination candidate, release time, release pose. -/
structure Release where
  destination : Place
  time : Time
  reach : Int
  slew : Int
  deriving DecidableEq, Repr

/-- Tracker state (R52). The lift in progress exists in GRIPPED and RELEASE_HOLD, the release part and the running regrip timer
(its expiry) in RELEASE_HOLD only. -/
inductive TrackerState where
  | empty
  | gripped (lift : Lift)
  | releaseHold (lift : Lift) (release : Release) (expiry : Time)
  | calibration
  | held
  deriving DecidableEq, Repr

/-- The lift tracker; `sort` is the current sort (R70), counted from 0. -/
structure Tracker where
  state : TrackerState
  sort : Fin 12
  deriving DecidableEq, Repr

/-! ### Weigh unit (chapter 5) -/

/-- The weigh parameters (R77). -/
structure WeighParams where
  budget : Nat
  still : Nat
  tolerance : Nat
  motion : Nat
  grip : Nat
  release : Nat
  regrip : Nat
  trim : Nat
  tare : Nat
  deriving DecidableEq, Repr

/-- Phase of a lift context (R80). -/
inductive Phase where | gripped | released
  deriving DecidableEq, Repr

/-- The lift context (R80); `latchScan` and `thawScan` name the scans that R89 excludes. -/
structure LiftContext where
  budget : Nat
  still : Nat
  tolerance : Nat
  motion : Nat
  trim : Nat
  tare : Nat
  phase : Phase
  latchScan : Time
  thawScan : Option Time
  deriving DecidableEq, Repr

/-- The calibration context (R100). -/
structure CalContext where
  budget : Nat
  motion : Nat
  trim : Nat
  tare : Nat
  deriving DecidableEq, Repr

/-- The context the weigh unit holds. -/
inductive Context where
  | absent
  | lift (c : LiftContext)
  | calibration (c : CalContext)
  deriving DecidableEq, Repr

/-- Close status of a window (R87). -/
inductive CloseStatus where | still | full | short | flushed | fault | noTable | never
  deriving DecidableEq, Repr

/-- Window state (R87); `unopened` is the manual's NONE. -/
inductive WindowState where
  | unopened
  | opened
  | suspended
  | frozen
  | closed (status : CloseStatus)
  deriving DecidableEq, Repr

/-- The weigh window (R87, R88): state, samples (oldest first), table-missed flag. -/
structure Window where
  state : WindowState
  samples : List Int
  missed : Bool
  deriving DecidableEq, Repr

/-- An entry of the scan history (R85). -/
structure HistoryEntry where
  holding : Bool
  rates : Option Rates
  deriving DecidableEq, Repr

/-- The latest instantaneous weight (R82). -/
structure LatestWeight where
  weight : Int
  time : Time
  deriving DecidableEq, Repr

/-- The weigh unit. -/
structure Weigh where
  params : WeighParams
  newer : Option HistoryEntry
  older : Option HistoryEntry
  context : Context
  window : Window
  overload : Bool
  latest : Option LatestWeight
  deriving DecidableEq, Repr

/-! ### Operation unit (chapter 8) -/

/-- The long operation in the slot (R139). -/
inductive Op where
  | zero (count : Nat) (sum : Int) (skipped : Nat)
  | span (mass : Nat)
  | scanOnce
  deriving DecidableEq, Repr

/-- Kind of a long operation (R141). -/
inductive OpKind where | zero | span | scanOnce
  deriving DecidableEq, Repr

/-- Failure reason (R141). -/
inductive FailReason where | gripped | unreferenced | range | released | band
  deriving DecidableEq, Repr

/-- Abort cause (R141). -/
inductive AbortCause where | request | linkReset | supervision
  deriving DecidableEq, Repr

/-- Result of a long operation (R139). -/
inductive OpResult where
  | done
  | failed (reason : FailReason)
  | aborted (cause : AbortCause)
  deriving DecidableEq, Repr

/-- The last result (R139). -/
structure LastResult where
  kind : OpKind
  result : OpResult
  time : Time
  deriving DecidableEq, Repr

/-- The operation unit: the slot (none is IDLE) and the last result. -/
structure OpUnit where
  slot : Option Op
  last : Option LastResult
  deriving DecidableEq, Repr

/-! ### Tally (chapter 6) -/

/-- A sort entry (R104). -/
structure SortEntry where
  bunk : Nat
  loaded : Nat
  unloaded : Nat
  adjusted : Int
  loadLifts : Nat
  unloadLifts : Nat
  deriving DecidableEq, Repr

/-- The tally (R104, R105, R112). -/
structure Tally where
  entries : Vector SortEntry 12
  loadNumber : Nat
  opening : Nat
  nextLift : Nat
  shifts : Nat
  returns : Nat
  unweighed : Nat
  openTime : Time
  limit : Nat
  deriving DecidableEq, Repr

/-! ### Record queue (chapter 7) -/

/-- Direction of a lift record (R64, R116). -/
inductive Direction where | load | unload | shift | returned | adjust
  deriving DecidableEq, Repr

/-- The gap accumulator, and a gap part (R126, R127). -/
structure Gap where
  lifts : Nat
  loaded : Nat
  unloaded : Nat
  adjusted : Int
  deriving DecidableEq, Repr

/-- A lift record (R111) or an adjustment record (R116); for an adjustment the window status, origin and destination are none,
sent as 0 (R198). -/
structure LiftRecord where
  loadNumber : Nat
  liftNumber : Nat
  direction : Direction
  sort : Fin 12
  marked : Bool
  overloadSeen : Bool
  unweighed : Bool
  weight : Option Nat
  excess : Option Nat
  regrips : Nat
  status : Option CloseStatus
  count : Nat
  spread : Nat
  origin : Option Place
  destination : Option Place
  gripTime : Time
  finalTime : Time
  reach : Int
  slew : Int
  applied : Int
  gap : Option Gap
  deriving DecidableEq, Repr

/-- Close mode of a load (R118). -/
inductive CloseMode where | carry | clear
  deriving DecidableEq, Repr

/-- An entry of a load record (R119). -/
structure LoadEntry where
  sort : Fin 12
  entry : SortEntry
  deriving DecidableEq, Repr

/-- A load record (R119). -/
structure LoadRecord where
  loadNumber : Nat
  mode : CloseMode
  openTime : Time
  closeTime : Time
  opening : Nat
  final : Nat
  shifts : Nat
  returns : Nat
  unweighed : Nat
  entries : List LoadEntry
  gap : Option Gap
  deriving DecidableEq, Repr

/-- A record (R125). -/
inductive Record where
  | lift (r : LiftRecord)
  | load (r : LoadRecord)
  deriving DecidableEq, Repr

/-- A record held, with its delivery mark (R125). -/
structure HeldRecord where
  record : Record
  marked : Bool
  deriving DecidableEq, Repr

/-- Stream mode (R136). -/
inductive StreamMode where | polled | stream
  deriving DecidableEq, Repr

/-- The record queue, head first. -/
structure RecordQueue where
  records : List HeldRecord
  gap : Gap
  mode : StreamMode
  threshold : Nat
  deriving DecidableEq, Repr

/-! ### Permit unit (chapter 9) -/

/-- The contribution table (R154): one row per source. -/
structure Contributions where
  zone : PerFn Level
  overload : PerFn Level
  pose : PerFn Level
  table : PerFn Level
  mode : PerFn Level
  interlock : PerFn Level
  supervision : PerFn Level
  deriving DecidableEq, Repr

/-- Mode of an aux line (R159). -/
inductive AuxMode where | off | state | interlock | mark
  deriving DecidableEq, Repr

/-- An aux line (R159, R160): mode, polarity (ACTIVE_HIGH when `activeHigh`), input level and debounced level (HIGH when true), the
time of the input's last change, the time of the last edge. -/
structure AuxLine where
  mode : AuxMode
  activeHigh : Bool
  input : Bool
  level : Bool
  since : Time
  lastEdge : Option Time
  deriving DecidableEq, Repr

/-- Supervision stage (R164). -/
inductive Stage where | off | normal | warned | stopped
  deriving DecidableEq, Repr

/-- Link supervision (R164); the timer is its expiry, none when stopped. -/
structure Supervision where
  interval : Nat
  stage : Stage
  timer : Option Time
  lastGood : Option Time
  deriving DecidableEq, Repr

/-- The permit unit. The permit lines are computed from the outputs (R153). -/
structure PermitUnit where
  rows : Contributions
  outputs : PerFn Level
  aux : Vector AuxLine 4
  sup : Supervision
  deriving DecidableEq, Repr

/-! ### Event unit (chapter 10) -/

/-- The sixteen event kinds in priority order (R169). -/
inductive Kind where
  | supervisionStop | permitHold | overload | supervisionWarn | channelBand | refFault | tableInvalid | payloadLimit
  | liftUnweighed | recordGap | opDone | recordsReady | liftDone | linkFault | restarted | lineState
  deriving DecidableEq, Repr

/-- Cause of an evaluation that took a function to HOLD (R157). -/
inductive HoldCause where | scan | lines | supervision
  deriving DecidableEq, Repr

/-- Cause of LINK_FAULT (R170). -/
inductive LinkCause where | check | timeout | overflow | kind
  deriving DecidableEq, Repr

/-- Cause of RECORDS_READY (R134). -/
inductive ReadyCause where | threshold | load | setting | reset
  deriving DecidableEq, Repr

/-- Start cause (R190). -/
inductive StartCause where | power | request | break_
  deriving DecidableEq, Repr

/-- What failed at a REF_FAULT (R13). -/
inductive RefFailed where | ref | supply | both
  deriving DecidableEq, Repr

/-- Outcome of TABLE_END (R33). -/
inductive TableOutcome where | incomplete | check | valid
  deriving DecidableEq, Repr

/-- The items of OP_DONE's detail record (R141). -/
structure OpDoneDetail where
  kind : OpKind
  result : OpResult
  value : Option Int
  samples : Nat
  skipped : Nat
  mean : Option Int
  mass : Option Nat
  time : Time
  deriving DecidableEq, Repr

/-- A detail record (R170): the description of one occurrence, with the items of the rule named. -/
inductive Detail where
  /-- R165 -/
  | supervisionStop (interval : Nat) (lastGood : Option Time) (aborted : Option OpKind) (time : Time)
  /-- R157: the functions that went to HOLD, and for each function the sources contributing HOLD to it. -/
  | permitHold (fns : PerFn Bool) (sources : PerFn (BitVec 7)) (cause : HoldCause) (time : Time)
  /-- R102 -/
  | overload (weight : Int) (rated : Nat) (row : Fin 16) (col : Fin 8) (time : Time)
  /-- R165 -/
  | supervisionWarn (interval : Nat) (lastGood : Option Time) (time : Time)
  /-- R11 -/
  | channelBand (channel : Fin 12) (high : Bool) (value : Int) (time : Time)
  /-- R13: the polarities are some true for HIGH, some false for LOW. -/
  | refFault (failed : RefFailed) (ref supply : Option Bool) (refRaw : BitVec 16) (supplyValue : Int) (time : Time)
  /-- R33 -/
  | tableInvalid (outcome : TableOutcome) (rows : Nat) (received formed : BitVec 16) (time : Time)
  /-- R113 -/
  | payloadLimit (loadNumber liftNumber : Nat) (sort : Fin 12) (applied : Int) (total limit : Nat) (time : Time)
  /-- R110 -/
  | liftUnweighed (loadNumber liftNumber : Nat) (direction : Direction) (sort : Fin 12) (status : CloseStatus) (count : Nat)
      (time : Time)
  /-- R130 -/
  | recordGap (loadNumber liftNumber : Nat) (direction : Direction) (lifts loads : Nat) (time : Time)
  /-- R141 -/
  | opDone (d : OpDoneDetail)
  /-- R134 -/
  | recordsReady (cause : ReadyCause) (lifts loads : Nat) (time : Time)
  /-- R66 -/
  | liftDone (loadNumber liftNumber : Nat) (direction : Direction) (sort : Fin 12) (status : CloseStatus) (weight : Option Nat)
      (time : Time)
  /-- R170 -/
  | linkFault (cause : LinkCause) (time : Time)
  /-- R180 -/
  | restarted (cause : StartCause) (keep : Bool) (time : Time)
  /-- R161 -/
  | lineState (line : Fin 4) (high active : Bool) (time : Time)
  deriving DecidableEq, Repr

/-- A notice in the queue (R172). -/
inductive Notice where
  | event (k : Kind)
  | attention
  deriving DecidableEq, Repr

/-- Event mode (R176). -/
inductive EventMode where | itemized | summary
  deriving DecidableEq, Repr

/-- The event unit. Bit n of the pending set and of the mask belongs to the kind of priority n (R169, R171). -/
structure EventUnit where
  pending : BitVec 16
  mask : BitVec 16
  counts : Vector Nat 16
  details : Vector (Option Detail) 16
  mode : EventMode
  armed : Bool
  queue : List Notice
  deriving DecidableEq, Repr

/-! ### Link port (chapter 11) -/

/-- A frame being received (R182): the bytes after its SYNC so far, and the time of the last byte (R183). -/
structure PartialFrame where
  bytes : List Byte
  lastByte : Time
  deriving DecidableEq, Repr

/-- A request frame in the receive buffer (R185): TAG, request code, values. -/
structure RequestFrame where
  tag : Byte
  code : Byte
  values : List Byte
  deriving DecidableEq, Repr

/-- Status of a reply (R187). -/
inductive Status where | ok | accepted | busy | range | state | full | unknown | format
  deriving DecidableEq, Repr

/-- What the last byte of a reply brings about beside emptying the slot: nothing, the line speed accepted by SET_LINK (R189), or
the link reset of RESET (R190). -/
inductive AfterReply where
  | nothing
  | speed (code : Fin 4)
  | linkReset
  deriving DecidableEq, Repr

/-- A reply in the reply slot (R186); `carried` is the number of records it carries (R135). -/
structure Reply where
  tag : Byte
  code : Byte
  status : Status
  results : List Byte
  carried : Nat
  after : AfterReply
  deriving DecidableEq, Repr

/-- Owner of the frame being sent (R188). -/
inductive TxOwner where | reply | notice | record
  deriving DecidableEq, Repr

/-- The frame being sent, with its bytes from SYNC to CHECK (R181). -/
structure TxFrame where
  owner : TxOwner
  bytes : List Byte
  deriving DecidableEq, Repr

/-- The link port. The receiver hunts when `rx` is none (R182); `speed` is the code of R196 note 1. -/
structure LinkPort where
  rx : Option PartialFrame
  buffer : List RequestFrame
  slot : Option Reply
  tx : Option TxFrame
  speed : Fin 4
  keep : Bool
  cause : StartCause
  deriving DecidableEq, Repr

/-! ### The whole part -/

/-- The state of the CL-12. `free` is the model's own counter of free values (log 8); `pending` is the queue of commands. -/
structure State where
  time : Time
  scanner : Scanner
  pose : PoseSolver
  table : Geometry
  zones : ZoneTable
  tracker : Tracker
  weigh : Weigh
  op : OpUnit
  tally : Tally
  records : RecordQueue
  permit : PermitUnit
  events : EventUnit
  link : LinkPort
  free : Nat
  pending : List Instr
  deriving DecidableEq, Repr

/-- The faults of a step. The type has no constructor: nothing in the manual stops the part, so no command faults (safe: a step
cannot answer a fault). -/
inductive Fault
  deriving DecidableEq, Repr

/-- The refusals of a step. -/
inductive Refusal where
  /-- Raised only by an arm of `exec` whose command has no meaning yet; there is none (safe). -/
  | notModelled (mnemonic : String)
  deriving DecidableEq, Repr

/-! ### Power-on values -/

/-- The level of every channel after power-on is 2 (R3); the band is the full range of R9, REF 30,000 to 35,535 (R10). -/
def Scanner.reset : Scanner where
  mode := .auto
  period := 10
  timer := some 10
  channels := #v[⟨2, 0, 39999⟩, ⟨2, 0, 39999⟩, ⟨2, 0, 39999⟩, ⟨2, -1800, 1799⟩, ⟨2, -1800, 1799⟩, ⟨2, 0, 3999⟩, ⟨2, 0, 3599⟩,
    ⟨2, -450, 449⟩, ⟨2, -450, 449⟩, ⟨2, -400, 1199⟩, ⟨2, 0, 2999⟩, ⟨2, 30000, 35535⟩]
  running := some ⟨Vector.replicate 12 2, 0, some 10⟩
  latest := none

/-- R77, R103. -/
def Weigh.reset : Weigh where
  params := ⟨32, 8, 40, 150, 6000, 3000, 800, 1000, 0⟩
  newer := none
  older := none
  context := .absent
  window := ⟨.unopened, [], false⟩
  overload := false
  latest := none

/-- R105, R112, R124. -/
def Tally.reset : Tally where
  entries := Vector.replicate 12 ⟨0, 0, 0, 0, 0, 0⟩
  loadNumber := 1
  opening := 0
  nextLift := 1
  shifts := 0
  returns := 0
  unweighed := 0
  openTime := 0
  limit := 15000

/-- R153, R156, R159, R164. The input levels are not the manual's: DESIGN CHOICE LOW (log 11). -/
def PermitUnit.reset : PermitUnit where
  rows := { zone := .const .free, overload := .const .free, pose := .const .slow,
            table := ⟨.slow, .slow, .slow, .slow, .free, .free⟩, mode := .const .free, interlock := .const .free,
            supervision := .const .free }
  outputs := .const .slow
  aux := Vector.replicate 4 ⟨.off, true, false, false, 0, none⟩
  sup := ⟨0, .off, none, none⟩

/-- The mask after power-on: every kind enabled except LIFT_DONE (12) and LINE_STATE (15) (R171). -/
def powerOnMask : BitVec 16 := 0x6FFF

/-- R180: RESTARTED has occurred and stands queued as an EVENT notice, which cleared its pending bit (log 12). -/
def EventUnit.reset : EventUnit where
  pending := 0
  mask := powerOnMask
  counts := #v[0, 0, 0, 0, 0, 0, 0, 0, 0, 0, 0, 0, 0, 0, 1, 0]
  details := #v[none, none, none, none, none, none, none, none, none, none, none, none, none, none, some (.restarted .power false 0), none]
  mode := .itemized
  armed := true
  queue := [.event .restarted]

/-- R194; the speed code 1 is 115,200 baud. -/
def LinkPort.reset : LinkPort where
  rx := none
  buffer := []
  slot := none
  tx := none
  speed := 1
  keep := false
  cause := .power

/-- The part right after power-on, with no command waiting. -/
def State.reset : State where
  time := 0
  scanner := Scanner.reset
  pose := ⟨none, none, none⟩
  table := ⟨.empty, Vector.replicate 16 none⟩
  zones := ⟨Vector.replicate 16 ⟨none, .notJudged, false⟩, none⟩
  tracker := ⟨.empty, 0⟩
  weigh := Weigh.reset
  op := ⟨none, none⟩
  tally := Tally.reset
  records := ⟨[], ⟨0, 0, 0, 0⟩, .polled, 4⟩
  permit := PermitUnit.reset
  events := EventUnit.reset
  link := LinkPort.reset
  free := 0
  pending := []

end Sys2Proof.Machine
end

