-- ==== Sys2Proof/Machine/Ops.lean ====
section
/-! DEFINITION. Shared operations: time, rounding, saturating counts, the six functions, the CRC, and the free orders. -/
namespace Sys2Proof.Machine

/-! ### Time (R1) -/

/-- A time formed by adding a duration in ms, modulo 2^32 (R1). -/
abbrev addMs (t : Time) (ms : Nat) : Time := t + BitVec.ofNat 32 ms

/-- The ms counted from `since` to `now`. -/
abbrev elapsedMs (since now : Time) : Nat := (now - since).toNat

/-! ### Rounding and saturation (00, Units) -/

/-- num / den rounded half up, for den above 0. -/
def roundHalfUp (num den : Int) : Int := (2 * num + den) / (2 * den)

/-- x held to the range from lo to hi. -/
def clampInt (lo hi x : Int) : Int := if x < lo then lo else if hi < x then hi else x

/-- A count increased by 1 that stays at `cap` once there. -/
def satInc (cap n : Nat) : Nat := if n < cap then n + 1 else n

/-- The sum of a list of integers. -/
def sumInt (l : List Int) : Int := l.foldl (· + ·) 0

/-- The largest minus the smallest of a list, 0 for an empty list. -/
def spreadOf : List Int → Int
  | [] => 0
  | x :: xs => xs.foldl max x - xs.foldl min x

/-! ### The six functions (R153) -/

/-- The values in function order. -/
def PerFn.toList {α : Type} (p : PerFn α) : List α := [p.slew, p.lift, p.stick, p.extend, p.rotate, p.grapple]

/-- A function applied to each of the six. -/
def PerFn.map {α β : Type} (f : α → β) (p : PerFn α) : PerFn β :=
  ⟨f p.slew, f p.lift, f p.stick, f p.extend, f p.rotate, f p.grapple⟩

/-- A function of two applied function by function. -/
def PerFn.zip {α β γ : Type} (f : α → β → γ) (p : PerFn α) (q : PerFn β) : PerFn γ :=
  ⟨f p.slew q.slew, f p.lift q.lift, f p.stick q.stick, f p.extend q.extend, f p.rotate q.rotate, f p.grapple q.grapple⟩

/-- A set of functions, bit n for function n (R195), as six Bools. -/
def fnSet (b : BitVec 6) : PerFn Bool :=
  ⟨b.getLsbD 0, b.getLsbD 1, b.getLsbD 2, b.getLsbD 3, b.getLsbD 4, b.getLsbD 5⟩

/-- The more restrictive of two levels (00, 'from least to most restrictive, are FREE, SLOW and HOLD'). -/
def Level.max : Level → Level → Level
  | .hold, _ => .hold
  | _, .hold => .hold
  | .slow, _ => .slow
  | _, .slow => .slow
  | .free, .free => .free

/-! ### The CRC-16 of R34 and R181 -/

/-- One bit of the division by x^16 + x^12 + x^5 + 1. -/
def crcBit (c : BitVec 16) : BitVec 16 := if c.msb then (c <<< 1) ^^^ 0x1021#16 else c <<< 1

/-- One byte, most significant bit first. -/
def crcByte (c : BitVec 16) (b : Byte) : BitVec 16 :=
  crcBit (crcBit (crcBit (crcBit (crcBit (crcBit (crcBit (crcBit (c ^^^ (b.setWidth 16 <<< 8)))))))))

/-- The CRC of a sequence of bytes: start value 0xFFFF, no final inversion (R34). -/
def crc16 (bytes : List Byte) : BitVec 16 := bytes.foldl crcByte 0xFFFF#16

/-! ### Free orders (log 8) -/

/-- A free choice between two: the manual allows both. -/
def freeBool (counter index : Nat) : Bool := Config.free counter index % 2 == 0

/-- A merge of lists that keeps the order within each list and leaves the order between lists free. `fuel` is the number of
elements. One list, or none, leaves nothing to choose. -/
def mergeFree {α : Type} (counter : Nat) : Nat → List (List α) → List α
  | 0, ls => ls.flatten
  | fuel + 1, ls =>
    match ls.filter (fun l => !l.isEmpty) with
    | [] => []
    | [l] => l
    | l :: l' :: rest =>
      let all := l :: l' :: rest
      let i := Config.free counter fuel % all.length
      match all[i]? with
      | some (x :: xs) => x :: mergeFree counter fuel (all.set i xs)
      | _ => all.flatten

/-- All the elements of the lists, in a free order that keeps the order within each. -/
def merged {α : Type} (counter : Nat) (ls : List (List α)) : List α := mergeFree counter ls.flatten.length ls

end Sys2Proof.Machine
end

