-- ==== Sys2Proof/Machine/Operands.lean ====
section
/-! DEFINITION. The operand forms: how values stand in the bytes of a body (R195: high byte first, signed in two's complement, a
presence byte before an item that may be absent), and the request frame of each request (R196). -/
namespace Sys2Proof.Machine

/-! ### Values to bytes -/

/-- The `k` low bytes of an integer in two's complement, high byte first (R195). -/
def be : Nat → Int → List Byte
  | 0, _ => []
  | k + 1, z => BitVec.ofInt 8 (z / 256 ^ k) :: be k z

/-- A yes-or-no item in one byte: 0 for no, 1 for yes (R196 note 1). -/
def boolByte (b : Bool) : Byte := if b then 1 else 0

/-- A value of the time counter in 4 bytes. -/
def timeBytes (t : Time) : List Byte := be 4 t.toNat

/-- An item that may be absent: its presence byte, then the item when present (R195). -/
def optBytes {α : Type} (f : α → List Byte) : Option α → List Byte
  | none => [0]
  | some a => 1 :: f a

/-- A set of functions in one byte, bit n for function n (R195). -/
def fnSetByte (p : PerFn Bool) : Byte :=
  (p.toList.zipIdx.foldl (fun acc x => if x.1 then acc + 2 ^ x.2 else acc) 0 : Nat)

/-! ### Values from bytes -/

/-- A 2-byte field. -/
def join16 (hi lo : Byte) : BitVec 16 := hi ++ lo

/-- A 3-byte field. -/
def join24 (hi mid lo : Byte) : BitVec 24 := (hi ++ mid ++ lo : BitVec 24)

/-- The bytes of a 2-byte field, high byte first. -/
def split16 (v : BitVec 16) : List Byte := [v.extractLsb' 8 8, v.extractLsb' 0 8]

/-- The bytes of a 3-byte field, high byte first. -/
def split24 (v : BitVec 24) : List Byte := [v.extractLsb' 16 8, v.extractLsb' 8 8, v.extractLsb' 0 8]

/-- The cells carried by a TABLE_WRITE, six bytes each (R32, R196). -/
def joinCells : List Byte → List (BitVec 16 × BitVec 16 × BitVec 16)
  | k1 :: k0 :: e1 :: e0 :: r1 :: r0 :: rest => (join16 k1 k0, join16 e1 e0, join16 r1 r0) :: joinCells rest
  | _ => []

/-- The bytes of cells. -/
def splitCells (cells : List (BitVec 16 × BitVec 16 × BitVec 16)) : List Byte :=
  cells.flatMap fun c => split16 c.1 ++ split16 c.2.1 ++ split16 c.2.2

/-- The weights carried by a TALLY_SET, three bytes each (R117, R196). -/
def joinWeights : List Byte → List (BitVec 24)
  | b2 :: b1 :: b0 :: rest => join24 b2 b1 b0 :: joinWeights rest
  | _ => []

/-- The bytes of weights. -/
def splitWeights (weights : List (BitVec 24)) : List Byte := weights.flatMap split24

/-! ### The request codes and lengths of R196 -/

/-- The length of the values a request code requires after the code; none for a code not listed. -/
def requestLength (code : Nat) : Option Nat :=
  match code with
  | 0x10 => some 2 | 0x11 => some 6 | 0x12 => some 0 | 0x13 => some 0
  | 0x18 => some 10 | 0x19 => some 0
  | 0x20 => some 0 | 0x21 => some 49 | 0x22 => some 2 | 0x23 => some 1
  | 0x28 => some 15 | 0x29 => some 1 | 0x2A => some 1
  | 0x30 => some 2 | 0x31 => some 0
  | 0x38 => some 16 | 0x39 => some 0 | 0x3A => some 0 | 0x3B => some 0
  | 0x40 => some 3 | 0x41 => some 4 | 0x42 => some 36 | 0x43 => some 1 | 0x44 => some 0
  | 0x48 => some 1 | 0x49 => some 2
  | 0x50 => some 0 | 0x51 => some 2 | 0x52 => some 0
  | 0x58 => some 0 | 0x59 => some 8 | 0x5A => some 0 | 0x5B => some 2 | 0x5C => some 0
  | 0x60 => some 3 | 0x61 => some 0 | 0x62 => some 1
  | 0x70 => some 2 | 0x71 => some 0 | 0x72 => some 0 | 0x73 => some 0
  | _ => none

/-! ### The request frame of each request (R181, R196) -/

/-- The frame of a SET_SCAN. -/
def frameSetScan (tag mode period : Byte) : RequestFrame := ⟨tag, 0x10, [mode, period]⟩
/-- The frame of a SET_CHANNEL. -/
def frameSetChannel (tag channel level : Byte) (lower upper : BitVec 16) : RequestFrame :=
  ⟨tag, 0x11, [channel, level] ++ split16 lower ++ split16 upper⟩
/-- The frame of a SET_CRANE. -/
def frameSetCrane (tag : Byte) (lb ls h ap ar : BitVec 16) : RequestFrame :=
  ⟨tag, 0x18, split16 lb ++ split16 ls ++ split16 h ++ split16 ap ++ split16 ar⟩
/-- The frame of a TABLE_WRITE. -/
def frameTableWrite (tag row : Byte) (cells : List (BitVec 16 × BitVec 16 × BitVec 16)) : RequestFrame :=
  ⟨tag, 0x21, row :: splitCells cells⟩
/-- The frame of a SET_ZONE. -/
def frameSetZone (tag index : Byte) (sectorStart sectorEnd reachMin reachMax heightMin heightMax : BitVec 16) (kind fns : Byte) :
    RequestFrame :=
  ⟨tag, 0x28, index :: (split16 sectorStart ++ split16 sectorEnd ++ split16 reachMin ++ split16 reachMax ++ split16 heightMin ++
    split16 heightMax ++ [kind, fns])⟩
/-- The frame of a SET_WEIGH. -/
def frameSetWeigh (tag budget still : Byte) (tolerance motion grip release regrip trim tare : BitVec 16) : RequestFrame :=
  ⟨tag, 0x38, [budget, still] ++ split16 tolerance ++ split16 motion ++ split16 grip ++ split16 release ++ split16 regrip ++
    split16 trim ++ split16 tare⟩

/-- The request frame that a request command stands for; none for a command that is no request. -/
def requestOf : Instr → Option RequestFrame
  | .unknownRequest tag code values => some ⟨tag, code, values⟩
  | .setScan tag mode period => some (frameSetScan tag mode period)
  | .setChannel tag channel level lower upper => some (frameSetChannel tag channel level lower upper)
  | .scanOnce tag => some ⟨tag, 0x12, []⟩
  | .getSample tag => some ⟨tag, 0x13, []⟩
  | .setCrane tag lb ls h ap ar => some (frameSetCrane tag lb ls h ap ar)
  | .getPose tag => some ⟨tag, 0x19, []⟩
  | .tableBegin tag => some ⟨tag, 0x20, []⟩
  | .tableWrite tag row cells => some (frameTableWrite tag row cells)
  | .tableEnd tag check => some ⟨tag, 0x22, split16 check⟩
  | .tableRead tag row => some ⟨tag, 0x23, [row]⟩
  | .setZone tag index a b c d e f kind fns => some (frameSetZone tag index a b c d e f kind fns)
  | .clearZone tag index => some ⟨tag, 0x29, [index]⟩
  | .getZone tag index => some ⟨tag, 0x2A, [index]⟩
  | .setSort tag sort apply => some ⟨tag, 0x30, [sort, apply]⟩
  | .mark tag => some ⟨tag, 0x31, []⟩
  | .setWeigh tag budget still a b c d e f g => some (frameSetWeigh tag budget still a b c d e f g)
  | .getWeigh tag => some ⟨tag, 0x39, []⟩
  | .weighFlush tag => some ⟨tag, 0x3A, []⟩
  | .weighDiscard tag => some ⟨tag, 0x3B, []⟩
  | .setPayload tag limit => some ⟨tag, 0x40, split24 limit⟩
  | .tallyAdjust tag sort amount => some ⟨tag, 0x41, sort :: split24 amount⟩
  | .tallySet tag weights => some ⟨tag, 0x42, splitWeights weights⟩
  | .loadClose tag closeMode => some ⟨tag, 0x43, [closeMode]⟩
  | .getTally tag => some ⟨tag, 0x44, []⟩
  | .fetchRecords tag number => some ⟨tag, 0x48, [number]⟩
  | .setStream tag mode threshold => some ⟨tag, 0x49, [mode, threshold]⟩
  | .zero tag => some ⟨tag, 0x50, []⟩
  | .span tag mass => some ⟨tag, 0x51, split16 mass⟩
  | .opAbort tag => some ⟨tag, 0x52, []⟩
  | .getPermits tag => some ⟨tag, 0x58, []⟩
  | .setLines tag m0 p0 m1 p1 m2 p2 m3 p3 => some ⟨tag, 0x59, [m0, p0, m1, p1, m2, p2, m3, p3]⟩
  | .getLines tag => some ⟨tag, 0x5A, []⟩
  | .setSupervision tag interval => some ⟨tag, 0x5B, split16 interval⟩
  | .resume tag => some ⟨tag, 0x5C, []⟩
  | .setEvents tag mode mask => some ⟨tag, 0x60, mode :: split16 mask⟩
  | .getEvents tag => some ⟨tag, 0x61, []⟩
  | .getDetail tag kind => some ⟨tag, 0x62, [kind]⟩
  | .setLink tag speed keep => some ⟨tag, 0x70, [speed, keep]⟩
  | .reset tag => some ⟨tag, 0x71, []⟩
  | .ping tag => some ⟨tag, 0x72, []⟩
  | .getStatus tag => some ⟨tag, 0x73, []⟩
  | .powerOn _ | .scanTimerExpiry | .scanCompletion _ | .regripTimerExpiry | .auxInputChange _ _ | .auxDebounceExpiry _
  | .supervisionTimerExpiry | .frameReceived _ | .frameTimeout _ | .lineBreakEnd _ | .transmitStart | .frameTransmitted
  | .lenOutOfRange _ => none

end Sys2Proof.Machine
end

