-- ==== Sys2Proof/Machine/Codes.lean ====
section
/-! DEFINITION. The codes of enumerated values (R195: numbered from 0 in the order the owning rule lists them; band state, direction,
close status, origin and destination as R195 and R198 state) and the kinds of events by priority (R169). -/
namespace Sys2Proof.Machine

/-- AUTO 0, MANUAL 1 (R196 note 1). -/
def ScanMode.code : ScanMode → Byte
  | .auto => 0 | .manual => 1

/-- IN 0, LOW 1, HIGH 2 (R195). -/
def Band.code : Band → Byte
  | .inside => 0 | .low => 1 | .high => 2

/-- EMPTY 0, LOADING 1, VALID 2 (R30). -/
def TableState.code : TableState → Byte
  | .empty => 0 | .loading => 1 | .valid => 2

/-- WEIGH 0, BUNK 1, SLOW 2, HOLD 3 (R38). -/
def ZoneKind.code : ZoneKind → Byte
  | .weigh => 0 | .bunk => 1 | .slow _ => 2 | .hold _ => 3

/-- The function set of a kind, present for SLOW and HOLD (R38). -/
def ZoneKind.fns : ZoneKind → Option (BitVec 6)
  | .weigh => none | .bunk => none | .slow f => some f | .hold f => some f

/-- INSIDE 0, OUTSIDE 1, NOT_JUDGED 2 (R42). -/
def Membership.code : Membership → Byte
  | .inside => 0 | .outside => 1 | .notJudged => 2

/-- FREE 0, SLOW 1, HOLD 2 (R153); as a contribution none 0, SLOW 1, HOLD 2 (R154); a zone level of R43 the same (log 15). -/
def Level.code : Level → Byte
  | .free => 0 | .slow => 1 | .hold => 2

/-- FIELD 1, BUNK 2 (R198). -/
def Place.code : Place → Nat
  | .field => 1 | .bunk => 2

/-- EMPTY 0, GRIPPED 1, RELEASE_HOLD 2, CALIBRATION 3, HELD 4 (R52). -/
def TrackerState.code : TrackerState → Byte
  | .empty => 0 | .gripped _ => 1 | .releaseHold _ _ _ => 2 | .calibration => 3 | .held => 4

/-- GRIPPED 0, RELEASED 1 (R80). -/
def Phase.code : Phase → Byte
  | .gripped => 0 | .released => 1

/-- STILL 1, FULL 2, SHORT 3, FLUSHED 4, FAULT 5, NO_TABLE 6, NEVER 7 (R198). -/
def CloseStatus.code : CloseStatus → Byte
  | .still => 1 | .full => 2 | .short => 3 | .flushed => 4 | .fault => 5 | .noTable => 6 | .never => 7

/-- NONE 0, OPEN 1, SUSPENDED 2, FROZEN 3, CLOSED 4 (R87). -/
def WindowState.code : WindowState → Byte
  | .unopened => 0 | .opened => 1 | .suspended => 2 | .frozen => 3 | .closed _ => 4

/-- The close status, when CLOSED. -/
def WindowState.status : WindowState → Option CloseStatus
  | .closed c => some c | .unopened => none | .opened => none | .suspended => none | .frozen => none

/-- A window state with its close status when CLOSED. -/
def windowBytes (w : WindowState) : List Byte := w.code :: optBytes (fun c => [CloseStatus.code c]) w.status

/-- ZERO 0, SPAN 1, SCAN_ONCE 2 (R141). -/
def OpKind.code : OpKind → Byte
  | .zero => 0 | .span => 1 | .scanOnce => 2

/-- The kind of the operation in the slot. -/
def Op.kind : Op → OpKind
  | .zero _ _ _ => .zero | .span _ => .span | .scanOnce => .scanOnce

/-- GRIPPED 0, UNREFERENCED 1, RANGE 2, RELEASED 3, BAND 4 (R141). -/
def FailReason.code : FailReason → Byte
  | .gripped => 0 | .unreferenced => 1 | .range => 2 | .released => 3 | .band => 4

/-- REQUEST 0, LINK_RESET 1, SUPERVISION 2 (R141). -/
def AbortCause.code : AbortCause → Byte
  | .request => 0 | .linkReset => 1 | .supervision => 2

/-- The reason or abort cause of a result, where there is one, as one item (R139), coded as R141 lists reasons and causes (log 13). -/
def OpResult.groundCode : OpResult → Option Byte
  | .done => none | .failed r => some r.code | .aborted c => some c.code

/-- DONE 0, FAILED 1, ABORTED 2 (R141). -/
def OpResult.code : OpResult → Byte
  | .done => 0 | .failed _ => 1 | .aborted _ => 2

/-- The reason of a failure. -/
def OpResult.reason : OpResult → Option FailReason
  | .failed r => some r | .done => none | .aborted _ => none

/-- The cause of an abort. -/
def OpResult.cause : OpResult → Option AbortCause
  | .aborted c => some c | .done => none | .failed _ => none

/-- LOAD 1, UNLOAD 2, SHIFT 3, RETURN 4, ADJUST 5 (R198). -/
def Direction.code : Direction → Byte
  | .load => 1 | .unload => 2 | .shift => 3 | .returned => 4 | .adjust => 5

/-- CARRY 0, CLEAR 1 (R196 note 1). -/
def CloseMode.code : CloseMode → Byte
  | .carry => 0 | .clear => 1

/-- POLLED 0, STREAM 1 (R196 note 1). -/
def StreamMode.code : StreamMode → Byte
  | .polled => 0 | .stream => 1

/-- OFF 0, STATE 1, INTERLOCK 2, MARK 3 (R159). -/
def AuxMode.code : AuxMode → Byte
  | .off => 0 | .state => 1 | .interlock => 2 | .mark => 3

/-- ACTIVE_HIGH 0, ACTIVE_LOW 1 (R159). -/
def polarityCode (activeHigh : Bool) : Byte := if activeHigh then 0 else 1

/-- HIGH 0, LOW 1 (R159). -/
def lineLevelCode (high : Bool) : Byte := if high then 0 else 1

/-- ACTIVE 0, INACTIVE 1 (R159). -/
def lineStateCode (active : Bool) : Byte := if active then 0 else 1

/-- LOW 0, HIGH 1: the polarity of a band fault (R11, R13). -/
def bandPolarityCode (high : Bool) : Byte := if high then 1 else 0

/-- OFF 0, NORMAL 1, WARNED 2, STOPPED 3 (R164). -/
def Stage.code : Stage → Byte
  | .off => 0 | .normal => 1 | .warned => 2 | .stopped => 3

/-- SCAN 0, LINES 1, SUPERVISION 2 (R157). -/
def HoldCause.code : HoldCause → Byte
  | .scan => 0 | .lines => 1 | .supervision => 2

/-- CHECK 0, TIMEOUT 1, OVERFLOW 2, KIND 3 (R170). -/
def LinkCause.code : LinkCause → Byte
  | .check => 0 | .timeout => 1 | .overflow => 2 | .kind => 3

/-- THRESHOLD 0, LOAD 1, SETTING 2, RESET 3 (R134). -/
def ReadyCause.code : ReadyCause → Byte
  | .threshold => 0 | .load => 1 | .setting => 2 | .reset => 3

/-- POWER 0, REQUEST 1, BREAK 2 (R180). -/
def StartCause.code : StartCause → Byte
  | .power => 0 | .request => 1 | .break_ => 2

/-- REF 0, SUPPLY 1, BOTH 2 (R13). -/
def RefFailed.code : RefFailed → Byte
  | .ref => 0 | .supply => 1 | .both => 2

/-- INCOMPLETE 0, CHECK 1, VALID 2 (R33). -/
def TableOutcome.code : TableOutcome → Byte
  | .incomplete => 0 | .check => 1 | .valid => 2

/-- ITEMIZED 0, SUMMARY 1 (R196 note 1). -/
def EventMode.code : EventMode → Byte
  | .itemized => 0 | .summary => 1

/-- OK 0 to FORMAT 7 (R195). -/
def Status.code : Status → Byte
  | .ok => 0 | .accepted => 1 | .busy => 2 | .range => 3 | .state => 4 | .full => 5 | .unknown => 6 | .format => 7

/-- A sort in one byte: 1 to 12. -/
def sortByte (sort : Fin 12) : Byte := BitVec.ofNat 8 (sort.val + 1)

/-- The priority of a kind (R169). -/
def Kind.prio : Kind → Fin 16
  | .supervisionStop => 0 | .permitHold => 1 | .overload => 2 | .supervisionWarn => 3 | .channelBand => 4 | .refFault => 5
  | .tableInvalid => 6 | .payloadLimit => 7 | .liftUnweighed => 8 | .recordGap => 9 | .opDone => 10 | .recordsReady => 11
  | .liftDone => 12 | .linkFault => 13 | .restarted => 14 | .lineState => 15

/-- The kinds in priority order (R169). -/
def Kind.all : List Kind :=
  [.supervisionStop, .permitHold, .overload, .supervisionWarn, .channelBand, .refFault, .tableInvalid, .payloadLimit,
   .liftUnweighed, .recordGap, .opDone, .recordsReady, .liftDone, .linkFault, .restarted, .lineState]

/-- The kind a detail record belongs to. -/
def Detail.kind : Detail → Kind
  | .supervisionStop _ _ _ _ => .supervisionStop
  | .permitHold _ _ _ _ => .permitHold
  | .overload _ _ _ _ _ => .overload
  | .supervisionWarn _ _ _ => .supervisionWarn
  | .channelBand _ _ _ _ => .channelBand
  | .refFault _ _ _ _ _ _ => .refFault
  | .tableInvalid _ _ _ _ _ => .tableInvalid
  | .payloadLimit _ _ _ _ _ _ _ => .payloadLimit
  | .liftUnweighed _ _ _ _ _ _ _ => .liftUnweighed
  | .recordGap _ _ _ _ _ _ => .recordGap
  | .opDone _ => .opDone
  | .recordsReady _ _ _ _ => .recordsReady
  | .liftDone _ _ _ _ _ _ _ => .liftDone
  | .linkFault _ _ => .linkFault
  | .restarted _ _ _ => .restarted
  | .lineState _ _ _ _ => .lineState

end Sys2Proof.Machine
end

