-- ==== Sys2Proof/Machine/Formats.lean ====
section
/-! DEFINITION. The layouts of chapter 12: detail records (R197 with the owning rules), lift and load records (R198, R199), and the
frame (R181). -/
namespace Sys2Proof.Machine

/-! ### Detail records -/

/-- The detail bytes of a PERMIT_HOLD: a function set, then one source set for each function in it, then cause and time (R197). -/
def permitHoldBytes (fns : PerFn Bool) (sources : PerFn (BitVec 7)) (cause : HoldCause) (time : Time) : List Byte :=
  fnSetByte fns :: ((fns.toList.zip sources.toList).filterMap fun x => if x.1 then some (x.2.setWidth 8) else none)
    ++ cause.code :: timeBytes time

/-- The detail bytes of an OP_DONE (R141, R197). -/
def opDoneBytes (d : OpDoneDetail) : List Byte :=
  [d.kind.code, d.result.code] ++ optBytes (fun r => [FailReason.code r]) d.result.reason
    ++ optBytes (fun c => [AbortCause.code c]) d.result.cause ++ optBytes (be 4) d.value ++ be 1 d.samples ++ be 1 d.skipped
    ++ optBytes (be 4) d.mean ++ optBytes (fun m => be 2 (m : Nat)) d.mass ++ timeBytes d.time

/-- The bytes of the time of the last good frame. The manual's details always have one; where there is none the value is free
(log 17). -/
def lastGoodBytes (t : Option Time) : List Byte :=
  match t with
  | some x => timeBytes x
  | none => be 4 Config.noGoodFrame

/-- The detail bytes of a detail record: the items of the owning rule in its order, at the widths of R195. -/
def Detail.bytes : Detail → List Byte
  | .supervisionStop interval lastGood aborted time =>
    be 2 interval ++ lastGoodBytes lastGood ++ optBytes (fun k => [OpKind.code k]) aborted ++ timeBytes time
  | .permitHold fns sources cause time => permitHoldBytes fns sources cause time
  | .overload weight rated row col time => be 3 weight ++ be 2 rated ++ be 1 row.val ++ be 1 col.val ++ timeBytes time
  | .supervisionWarn interval lastGood time => be 2 interval ++ lastGoodBytes lastGood ++ timeBytes time
  | .channelBand channel high value time => be 1 channel.val ++ [bandPolarityCode high] ++ be 2 value ++ timeBytes time
  | .refFault failed ref supply refRaw supplyValue time =>
    [failed.code] ++ optBytes (fun h => [bandPolarityCode h]) ref ++ optBytes (fun h => [bandPolarityCode h]) supply
      ++ split16 refRaw ++ be 2 supplyValue ++ timeBytes time
  | .tableInvalid outcome rows received formed time =>
    [outcome.code] ++ be 1 rows ++ split16 received ++ split16 formed ++ timeBytes time
  | .payloadLimit loadNumber liftNumber sort applied total limit time =>
    be 2 loadNumber ++ be 2 liftNumber ++ [sortByte sort] ++ be 3 applied ++ be 4 total ++ be 3 limit ++ timeBytes time
  | .liftUnweighed loadNumber liftNumber direction sort status count time =>
    be 2 loadNumber ++ be 2 liftNumber ++ [direction.code, sortByte sort, status.code] ++ be 1 count ++ timeBytes time
  | .recordGap loadNumber liftNumber direction lifts loads time =>
    be 2 loadNumber ++ be 2 liftNumber ++ [direction.code] ++ be 1 lifts ++ be 1 loads ++ timeBytes time
  | .opDone d => opDoneBytes d
  | .recordsReady cause lifts loads time => [cause.code] ++ be 1 lifts ++ be 1 loads ++ timeBytes time
  | .liftDone loadNumber liftNumber direction sort status weight time =>
    be 2 loadNumber ++ be 2 liftNumber ++ [direction.code, sortByte sort, status.code]
      ++ optBytes (fun w => be 3 (w : Nat)) weight ++ timeBytes time
  | .linkFault cause time => [cause.code] ++ timeBytes time
  | .restarted cause keep time => [cause.code, boolByte keep] ++ timeBytes time
  | .lineState line high active time => be 1 line.val ++ [lineLevelCode high, lineStateCode active] ++ timeBytes time

/-! ### Records (R198, R199) -/

/-- The gap part: lifts 1, loaded 3, unloaded 3, adjusted 3 (R198). -/
def Gap.bytes (g : Gap) : List Byte := be 1 g.lifts ++ be 3 g.loaded ++ be 3 g.unloaded ++ be 3 g.adjusted

/-- An optional part of a record: present or not by a flag elsewhere in the record, with no presence byte (R198, R199). -/
def partBytes {α : Type} (f : α → List Byte) : Option α → List Byte
  | none => []
  | some a => f a

/-- The flags byte of a lift record (R198). -/
def LiftRecord.flags (r : LiftRecord) : Byte :=
  boolByte r.marked ||| (boolByte r.overloadSeen <<< 1) ||| (boolByte r.unweighed <<< 2) ||| (boolByte r.weight.isSome <<< 3)
    ||| (boolByte r.excess.isSome <<< 4) ||| (boolByte r.gap.isSome <<< 5)

/-- Origin in bits 4 to 7, destination in bits 0 to 3; 0 for an adjustment (R198). -/
def placesByte (origin destination : Option Place) : Byte :=
  BitVec.ofNat 8 (((origin.map Place.code).getD 0) * 16 + (destination.map Place.code).getD 0)

/-- A lift record (R198). -/
def LiftRecord.bytes (r : LiftRecord) : List Byte :=
  [(1 : Byte)] ++ be 2 r.loadNumber ++ be 2 r.liftNumber ++ [r.direction.code, sortByte r.sort, r.flags] ++ be 1 r.regrips
    ++ [(r.status.map CloseStatus.code).getD 0] ++ be 1 r.count ++ be 2 r.spread ++ [placesByte r.origin r.destination]
    ++ timeBytes r.gripTime ++ timeBytes r.finalTime ++ be 2 r.reach ++ be 2 r.slew ++ be 3 r.applied
    ++ partBytes (fun w => be 3 (w : Nat)) r.weight ++ partBytes (fun x => be 3 (x : Nat)) r.excess ++ partBytes Gap.bytes r.gap

/-- An entry of a load record, 15 bytes (R199). -/
def LoadEntry.bytes (e : LoadEntry) : List Byte :=
  [sortByte e.sort] ++ be 3 e.entry.bunk ++ be 3 e.entry.loaded ++ be 3 e.entry.unloaded ++ be 3 e.entry.adjusted
    ++ be 1 e.entry.loadLifts ++ be 1 e.entry.unloadLifts

/-- A load record (R199). -/
def LoadRecord.bytes (r : LoadRecord) : List Byte :=
  [(2 : Byte)] ++ be 2 r.loadNumber ++ [r.mode.code ||| (boolByte r.gap.isSome <<< 7)] ++ timeBytes r.openTime ++ timeBytes r.closeTime
    ++ be 4 r.opening ++ be 4 r.final ++ be 2 r.shifts ++ be 2 r.returns ++ be 2 r.unweighed ++ partBytes Gap.bytes r.gap
    ++ be 1 r.entries.length ++ r.entries.flatMap LoadEntry.bytes

/-- A record as a record frame carries it (R198, R199). -/
def Record.bytes : Record → List Byte
  | .lift r => r.bytes
  | .load r => r.bytes

/-! ### The frame (R181) -/

/-- SYNC. -/
def syncByte : Byte := 0xC3

/-- KIND of a request, reply, notice and record frame. -/
def kindRequest : Byte := 0x51
def kindReply : Byte := 0x52
def kindNotice : Byte := 0x53
def kindRecord : Byte := 0x54

/-- A frame: SYNC, LEN, KIND, TAG, BODY, CHECK; the CHECK is the CRC from LEN to the end of BODY, high byte first (R181). -/
def frameBytes (kind tag : Byte) (body : List Byte) : List Byte :=
  let inner := BitVec.ofNat 8 (body.length + 2) :: kind :: tag :: body
  syncByte :: inner ++ split16 (crc16 inner)

/-- The BODY of a reply: request code, status, results (R181, R195). -/
def Reply.body (r : Reply) : List Byte := r.code :: r.status.code :: r.results

/-- The bytes of a request frame on the line. -/
def RequestFrame.bytes (f : RequestFrame) : List Byte := frameBytes kindRequest f.tag (f.code :: f.values)

end Sys2Proof.Machine
end

