-- ==== Sys2Proof/Machine/Flags.lean ====
section
/-! DEFINITION. The event unit's flags and its notice queue (chapter 10): pending set, mask, raised set, counts, attention flag. In
these functions `sending` says that the head notice is being transmitted (R172). -/
namespace Sys2Proof.Machine

/-- The bit of a kind in a kind set: bit n for priority n (R195). -/
def Kind.bit (k : Kind) : BitVec 16 := BitVec.twoPow 16 k.prio.val

namespace EventUnit

/-- The raised set: pending and enabled (R171). -/
def raised (e : EventUnit) : BitVec 16 := e.pending &&& e.mask

/-- Whether the kind's pending bit is set. -/
def isPending (e : EventUnit) (k : Kind) : Bool := e.pending.getLsbD k.prio.val

/-- Whether the kind is enabled. -/
def isEnabled (e : EventUnit) (k : Kind) : Bool := e.mask.getLsbD k.prio.val

/-- Whether an EVENT notice of the kind is in the queue. -/
def hasNotice (e : EventUnit) (k : Kind) : Bool := e.queue.contains (.event k)

/-- The occurrence count of a kind. -/
def count (e : EventUnit) (k : Kind) : Nat := e.counts[k.prio]

/-- The detail record of a kind. -/
def detail (e : EventUnit) (k : Kind) : Option Detail := e.details[k.prio]

/-- The pending bit set. -/
def setPending (e : EventUnit) (k : Kind) : EventUnit := { e with pending := e.pending ||| k.bit }

/-- The pending bit cleared. -/
def clearPending (e : EventUnit) (k : Kind) : EventUnit := { e with pending := e.pending &&& ~~~k.bit }

/-- The kind that R173 gives a free place: the highest-priority raised kind that has no EVENT notice in the queue. -/
def nextToQueue (e : EventUnit) : Option Kind :=
  Kind.all.find? fun k => e.raised.getLsbD k.prio.val && !e.hasNotice k

/-- R173: notices are queued one at a time while the queue holds fewer than eight and some raised kind has none; a kind's pending
bit is cleared as its notice is queued. `fuel` 8 suffices, one for each place. -/
def fill : Nat → EventUnit → EventUnit
  | 0, e => e
  | fuel + 1, e =>
    if 8 ≤ e.queue.length then e
    else match e.nextToQueue with
      | none => e
      | some k => fill fuel { e.clearPending k with queue := e.queue ++ [.event k] }

/-- The queue without its unsent ATTENTION notice (R175). -/
def withdrawAttention (sending : Bool) (q : List Notice) : List Notice :=
  match sending, q with
  | true, head :: rest => head :: rest.filter (· != .attention)
  | _, q => q.filter (· != .attention)

/-- What the event unit does after every event that changes the raised set or removes a notice: R173 in ITEMIZED, R175 in SUMMARY;
the attention flag is armed when the raised set is empty. -/
def settle (sending : Bool) (e : EventUnit) : EventUnit :=
  match e.mode with
  | .itemized =>
    let e := e.fill 8
    if e.raised = 0 then { e with armed := true } else e
  | .summary =>
    if e.raised = 0 then { e with armed := true, queue := withdrawAttention sending e.queue }
    else if e.armed && !e.queue.contains .attention then { e with armed := false, queue := e.queue ++ [.attention] }
    else e

/-- An occurrence (R169): pending bit, detail record, count. -/
def occur (e : EventUnit) (d : Detail) : EventUnit :=
  { e.setPending d.kind with
    details := e.details.set d.kind.prio (some d)
    counts := e.counts.set d.kind.prio (satInc 255 (e.count d.kind)) }

/-- An occurrence, and what follows it. -/
def raise (sending : Bool) (e : EventUnit) (d : Detail) : EventUnit := (e.occur d).settle sending

/-- A kind is reported (R170, R174): its pending bit is cleared and its count becomes 0. -/
def report (e : EventUnit) (k : Kind) : EventUnit := { e.clearPending k with counts := e.counts.set k.prio 0 }

/-- Every raised kind is reported (R177). -/
def reportRaised (e : EventUnit) : EventUnit :=
  { e with
    pending := e.pending &&& ~~~e.raised
    counts := Vector.ofFn fun i => if e.raised.getLsbD i.val then 0 else e.counts[i] }

/-- The pending bits of the kinds of dropped EVENT notices set again (R176, R179). -/
def repend (e : EventUnit) (dropped : List Notice) : EventUnit :=
  dropped.foldl (fun e n => match n with | .event k => e.setPending k | .attention => e) e

/-- R176, the accepted SET_EVENTS. -/
def setModeMask (sending : Bool) (mode : EventMode) (mask : BitVec 16) (e : EventUnit) : EventUnit :=
  let e :=
    if mode = e.mode then e
    else
      let kept := if sending then e.queue.take 1 else []
      let dropped := if sending then e.queue.drop 1 else e.queue
      { e.repend dropped with queue := kept, armed := if mode = .summary then true else e.armed }
  settle sending { e with mode := mode, mask := mask }

/-- R179, R180: the event unit at a link reset, as one operation, and what is queued after it. -/
def linkReset (cause : StartCause) (keep : Bool) (time : Time) (e : EventUnit) : EventUnit :=
  let e := { e.repend e.queue with queue := [] }
  let e := if keep then e else { e with mode := .itemized, mask := powerOnMask }
  let e := { e with armed := true }
  (e.occur (.restarted cause keep time)).settle false

/-- A notice is an EVENT notice. -/
def isEvent : Notice → Bool
  | .event _ => true
  | .attention => false

/-- The notice queue is as R172 and R175 allow: at most eight notices, no two of one kind, and in SUMMARY at most one ATTENTION and
one EVENT left in transmission. -/
def wf (e : EventUnit) : Bool :=
  e.queue.length ≤ 8 && Kind.all.all (fun k => e.queue.count (.event k) ≤ 1)
    && (e.mode == .itemized || (e.queue.count .attention ≤ 1 && (e.queue.filter isEvent).length ≤ 1))

end EventUnit

/-- The BODY of a notice, formed when its transmission begins (R174, R175, R197). -/
def noticeBody (e : EventUnit) : Notice → List Byte
  | .event k =>
    let d := ((e.detail k).map Detail.bytes).getD []
    [(1 : Byte)] ++ be 1 k.prio.val ++ be 1 (e.count k) ++ be 1 d.length ++ d
  | .attention => [(2 : Byte)] ++ split16 e.raised ++ be 1 e.queue.length

/-- The head notice is being transmitted (R172). -/
def State.sending (s : State) : Bool :=
  match s.link.tx with
  | some f => f.owner == .notice
  | none => false

/-- One occurrence reaches the event unit (R169). -/
def State.raise (s : State) (d : Detail) : State := { s with events := s.events.raise s.sending d }

/-- Occurrences reach the event unit one after another. -/
def State.raiseAll (s : State) (ds : List Detail) : State :=
  { s with events := ds.foldl (fun e d => e.raise s.sending d) s.events }

end Sys2Proof.Machine
end

