-- ==== Sys2Proof/Machine/Permits.lean ====
section
/-! DEFINITION. The permit unit (chapter 9): the contribution table and its evaluation, the aux lines, link supervision. -/
namespace Sys2Proof.Machine

/-! ### Rows of the contribution table (R154) -/

def rowNone : PerFn Level := .const .free
def rowSlowAll : PerFn Level := .const .slow
def rowTable : PerFn Level := ⟨.slow, .slow, .slow, .slow, .free, .free⟩
def rowOverload : PerFn Level := ⟨.slow, .slow, .hold, .hold, .free, .free⟩
def rowHold : PerFn Level := ⟨.hold, .hold, .hold, .hold, .hold, .slow⟩

/-- The rows in source order: ZONE, OVERLOAD, POSE, TABLE, MODE, INTERLOCK, SUPERVISION (R154). -/
def Contributions.toList (c : Contributions) : List (PerFn Level) :=
  [c.zone, c.overload, c.pose, c.table, c.mode, c.interlock, c.supervision]

/-- The most restrictive contribution to each function, FREE when no source contributes (R155). -/
def Contributions.combine (c : Contributions) : PerFn Level := c.toList.foldl (PerFn.zip Level.max) rowNone

/-- The sources contributing HOLD to the function that `f` reads, bit n for source n (R195). -/
def Contributions.holdSources (c : Contributions) (f : PerFn Level → Level) : BitVec 7 :=
  (c.toList.zipIdx.foldl (fun acc x => if f x.1 = .hold then acc + 2 ^ x.2 else acc) 0 : Nat)

/-- The HOLD sources of each function. -/
def Contributions.allHoldSources (c : Contributions) : PerFn (BitVec 7) :=
  ⟨c.holdSources PerFn.slew, c.holdSources PerFn.lift, c.holdSources PerFn.stick, c.holdSources PerFn.extend,
   c.holdSources PerFn.rotate, c.holdSources PerFn.grapple⟩

/-- A source is active when it contributes at least one level (R154). -/
def rowActive (r : PerFn Level) : Bool := r.toList.any (· != .free)

/-! ### Lines and evaluation -/

/-- The SLOW line of an output (R153). -/
def Level.slowLine (l : Level) : Bool := l != .free

/-- The HOLD line of an output (R153). -/
def Level.holdLine (l : Level) : Bool := l == .hold

namespace PermitUnit

/-- The SLOW lines SL0 to SL5 (R153). -/
def slowLines (p : PermitUnit) : PerFn Bool := p.outputs.map Level.slowLine

/-- The HOLD lines HD0 to HD5 (R153). -/
def holdLines (p : PermitUnit) : PerFn Bool := p.outputs.map Level.holdLine

/-- An evaluation (R155). -/
def evaluate (p : PermitUnit) : PermitUnit := { p with outputs := p.rows.combine }

/-- The functions that an evaluation takes to HOLD from FREE or from SLOW (R157). -/
def goingToHold (p : PermitUnit) : PerFn Bool := p.outputs.zip (fun old new => old != .hold && new == .hold) p.rows.combine

/-- The PERMIT_HOLD that an evaluation raises (R157). -/
def holdEvent (cause : HoldCause) (time : Time) (p : PermitUnit) : List Detail :=
  let fns := p.goingToHold
  if fns.toList.any id then [.permitHold fns p.rows.allHoldSources cause time] else []

end PermitUnit

/-- An evaluation that raises PERMIT_HOLD where R157 requires it; the causes are SCAN, LINES and SUPERVISION. -/
def State.evaluate (cause : HoldCause) (s : State) : State :=
  { s with permit := s.permit.evaluate }.raiseAll (s.permit.holdEvent cause s.time)

/-- An evaluation after an update that can raise no function to HOLD: a TABLE, MODE or withdrawn OVERLOAD row (R155, log 18). -/
def State.evaluateQuiet (s : State) : State := { s with permit := s.permit.evaluate }

/-- The MODE row formed anew, and the evaluation (R7, R156). -/
def State.setModeRow (active : Bool) (s : State) : State :=
  { s with permit := { s.permit with rows := { s.permit.rows with mode := if active then rowSlowAll else rowNone } } }.evaluateQuiet

/-- The TABLE row formed anew, and the evaluation (R36, R156). -/
def State.setTableRow (active : Bool) (s : State) : State :=
  { s with permit := { s.permit with rows := { s.permit.rows with table := if active then rowTable else rowNone } } }.evaluateQuiet

/-- The OVERLOAD row emptied, and the evaluation (R101, R156). -/
def State.clearOverloadRow (s : State) : State :=
  { s with permit := { s.permit with rows := { s.permit.rows with overload := rowNone } } }.evaluateQuiet

/-! ### Aux lines (R159 to R161) -/

/-- The debounced state is ACTIVE (R159). -/
def AuxLine.active (a : AuxLine) : Bool := a.level == a.activeHigh

/-- The line contributes INTERLOCK: in mode INTERLOCK with debounced state INACTIVE (R161). -/
def AuxLine.interlocked (a : AuxLine) : Bool := a.mode == .interlock && !a.active

/-- The input has held a level other than the debounced level for 20 ms (R160). -/
def AuxLine.debounceDue (now : Time) (a : AuxLine) : Bool := a.input != a.level && 20 ≤ elapsedMs a.since now

/-- The INTERLOCK row formed from the lines (R161). -/
def PermitUnit.formInterlock (p : PermitUnit) : PermitUnit :=
  { p with rows := { p.rows with interlock := if p.aux.toList.any AuxLine.interlocked then rowHold else rowNone } }

/-! ### Link supervision (R164, R165, R168) -/

/-- The timer restarted with the interval in force (R164). -/
def Supervision.restart (now : Time) (v : Supervision) : Supervision := { v with timer := some (addMs now v.interval) }

/-- The SUPERVISION row of a stage (R154). -/
def Stage.row : Stage → PerFn Level
  | .off => rowNone
  | .normal => rowNone
  | .warned => rowSlowAll
  | .stopped => rowHold

/-- A change of supervision: its row follows the stage, and the outputs are evaluated (R156). -/
def State.setSupervision (v : Supervision) (s : State) : State :=
  { s with permit := { s.permit with sup := v, rows := { s.permit.rows with supervision := v.stage.row } } }.evaluate .supervision

/-- A good frame reaches supervision (R164). -/
def State.goodFrame (s : State) : State :=
  let v := { s.permit.sup with lastGood := some s.time }
  match v.stage with
  | .off => { s with permit := { s.permit with sup := v } }
  | .normal => { s with permit := { s.permit with sup := v.restart s.time } }
  | .warned => s.setSupervision ({ v with stage := .normal }.restart s.time)
  | .stopped => { s with permit := { s.permit with sup := v } }

/-- Supervision at a link reset (R168). -/
def State.supervisionLinkReset (s : State) : State :=
  match s.permit.sup.stage with
  | .off => s
  | .normal => { s with permit := { s.permit with sup := s.permit.sup.restart s.time } }
  | .warned => s.setSupervision ({ s.permit.sup with stage := .normal }.restart s.time)
  | .stopped => s

end Sys2Proof.Machine
end

