-- ==== Sys2Proof/Machine/Scanner.lean ====
section
/-! DEFINITION. The scanner (chapter 1): conversion times and the budget, compensation, scaling, bands, the start of a scan, and the
events of its completion. -/
namespace Sys2Proof.Machine

/-- The answer that the owning block gives to a request (R186): the state after it, the status, the results; for FETCH_RECORDS the
number of records carried (R135), for SET_LINK and RESET what follows the reply's last byte (R189, R190). -/
structure Answer where
  state : State
  status : Status
  results : List Byte
  carried : Nat := 0
  after : AfterReply := .nothing
  deriving DecidableEq, Repr

/-! ### Channels and scaling -/

/-- The channels in order. -/
def channelList : List (Fin 12) := [0, 1, 2, 3, 4, 5, 6, 7, 8, 9, 10, 11]

/-- The base of each channel (R9). -/
def channelBase : Vector Int 12 := #v[0, 0, 0, -1800, -1800, 0, 0, -450, -450, -400, 0, 0]

/-- The span of each channel (R9); channel 11 is not scaled, which the span 65,536 says. -/
def channelSpan : Vector Nat 12 := #v[40000, 40000, 40000, 3600, 3600, 4000, 3600, 900, 900, 1600, 3000, 65536]

/-- The least and the greatest scaled value of a channel, its full range (R9). -/
def fullRangeLow (ch : Fin 12) : Int := channelBase[ch]
def fullRangeHigh (ch : Fin 12) : Int := channelBase[ch] + channelSpan[ch] - 1

/-- The conversion time of a level in µs (R3). -/
def conversionTime (level : Fin 8) : Nat := 50 * 2 ^ level.val

/-- The sum of the twelve conversion times in µs (R2). -/
def scanDuration (levels : Vector (Fin 8) 12) : Nat := (levels.toList.map conversionTime).sum

/-- The scan-period budget (R4). -/
def budgetHolds (levels : Vector (Fin 8) 12) (period : Nat) : Bool := scanDuration levels + 1000 ≤ period * 1000

/-- The levels most recently written. -/
def Scanner.levels (c : Scanner) : Vector (Fin 8) 12 := Vector.ofFn fun i => c.channels[i].level

/-- Compensated counts (R8): channels 0 to 2 are corrected by REF and clamped. -/
def compensated (raw : Vector (BitVec 16) 12) (ch : Fin 12) : Int :=
  let counts : Int := raw[ch].toNat
  if ch.val < 3 then clampInt 0 65535 (counts - ((raw[11].toNat : Int) - 32768)) else counts

/-- The scaled value of a channel (R9). -/
def scaledValue (raw : Vector (BitVec 16) 12) (ch : Fin 12) : Int :=
  compensated raw ch * channelSpan[ch] / 65536 + channelBase[ch]

/-- The band state of a scaled value (R10). -/
def judgeBand (c : Channel) (value : Int) : Band :=
  if value < c.lower then .low else if c.upper < value then .high else .inside

/-- Steps 1 to 4 of a scan completion (R2): the scan that raw counts give. -/
def judgeScan (channels : Vector Channel 12) (raw : Vector (BitVec 16) 12) (time : Time) : Scan :=
  let band := fun i : Fin 12 => judgeBand channels[i] (scaledValue raw i)
  { raw := raw
    scaled := Vector.ofFn (scaledValue raw)
    band := Vector.ofFn band
    referenced := band 11 == .inside && band 10 == .inside
    time := time }

/-- The band state a channel has, IN before the first completion (R10). -/
def Scanner.bandState (c : Scanner) (ch : Fin 12) : Band :=
  match c.latest with
  | none => .inside
  | some scan => scan.band[ch]

/-- The reference status is REFERENCED, as it is before the first completion (R12). -/
def Scanner.isReferenced (c : Scanner) : Bool :=
  match c.latest with
  | none => true
  | some scan => scan.referenced

/-! ### Events of a completion -/

/-- CHANNEL_BAND for each channel that leaves IN, in channel order (R11). -/
def channelBandEvents (before : Scanner) (scan : Scan) : List Detail :=
  channelList.filterMap fun ch =>
    if before.bandState ch = .inside && scan.band[ch] ≠ .inside then
      some (.channelBand ch (scan.band[ch] == .high) scan.scaled[ch] scan.time)
    else none

/-- The polarity of a band state: HIGH is true; none when IN (R13). -/
def Band.polarity : Band → Option Bool
  | .inside => none | .low => some false | .high => some true

/-- What failed (R13). -/
def refFailed (ref supply : Band) : RefFailed :=
  if supply = .inside then .ref else if ref = .inside then .supply else .both

/-- REF_FAULT at an unreferenced scan that follows a REFERENCED status (R13). -/
def refFaultEvents (before : Scanner) (scan : Scan) : List Detail :=
  if before.isReferenced && !scan.referenced then
    [.refFault (refFailed scan.band[11] scan.band[10]) scan.band[11].polarity scan.band[10].polarity scan.raw[11] scan.scaled[10]
      scan.time]
  else []

/-! ### Scan starts -/

/-- The start of an AUTO scan (R2, R5): the levels in force, and the timer reloaded from the holding value. -/
def Scanner.startAuto (now : Time) (c : Scanner) : Scanner :=
  { c with running := some ⟨c.levels, now, some c.period⟩, timer := some (addMs now c.period) }

/-- The scan timer's expiry (R5). A scan in progress is not stopped by it (R2): the next scan then waits for that completion, as R7
has it for a scan in progress at the return to AUTO. The budget of R4 keeps this case from the part (log 3). -/
def Scanner.expire (now : Time) (c : Scanner) : Scanner :=
  if c.running.isNone then c.startAuto now else { c with timer := none }

/-- The start of the scan of a SCAN_ONCE (R17). -/
def Scanner.startOnce (now : Time) (c : Scanner) : Scanner := { c with running := some ⟨c.levels, now, none⟩ }

/-- The running scan is the scan of a SCAN_ONCE. -/
def ScanRun.isOnce (r : ScanRun) : Bool := r.loaded.isNone

/-- The conversions of a running scan can have ended: the time counter has gone on by the whole milliseconds of its length (R2). -/
def ScanRun.canComplete (now : Time) (r : ScanRun) : Bool := scanDuration r.levels / 1000 ≤ elapsedMs r.start now

/-- The scan timer expires now (R5). -/
def Scanner.timerDue (now : Time) (c : Scanner) : Bool := c.mode == .auto && c.timer == some now

/-- The scan in progress completes now (R2). -/
def Scanner.completionDue (now : Time) (c : Scanner) : Bool := c.running.any (ScanRun.canComplete now)

/-- After a completion: an AUTO scan waits for it when AUTO was entered during the scan (R7), the scan of a SCAN_ONCE waits for it
when the request was accepted during an AUTO scan (R17). -/
def Scanner.startWaiting (onceRuns : Bool) (now : Time) (c : Scanner) : Scanner :=
  match c.running, c.mode with
  | none, .auto => if c.timer.isNone then c.startAuto now else c
  | none, .manual => if onceRuns then c.startOnce now else c
  | some _, _ => c

end Sys2Proof.Machine
end

