-- ==== Sys2Proof/Machine/Trig.lean ====
section
/-! DEFINITION. Cosine and sine of an angle in tenths of a degree, as integers scaled by 10^40 (log 10). The manual evaluates
R24 and R25 exactly and rounds once; forty digits leave every tie of those expressions exact (a tie needs a rational cosine, two
equal cosines, or cos 36° and cos 72°, whose entries differ by exactly one half) and every other value on its own side. -/
namespace Sys2Proof.Machine

/-- The scale of the tables, 10^40. -/
def trigScale : Int := 10000000000000000000000000000000000000000

/-- cos d°, d = 0 to 90, each rounded to the nearest unit of the scale. -/
def cosDegrees : List Int :=
  [10000000000000000000000000000000000000000,
   9998476951563912391570115588139148516927,
   9993908270190957300062434400439299644952,
   9986295347545738737844920584394365805910,
   9975640502598242476131626806442550263694,
   9961946980917455322950104024738880461836,
   9945218953682733369226919449805703815208,
   9925461516413220349800615893305841090437,
   9902680687415703150837748673448507592511,
   9876883405951377261900402476934372607584,
   9848077530122080593667430245895230136706,
   9816271834476639534965048998181408193183,
   9781476007338056379285667478695995324597] ++
  [9743700647852352285396944800882688330051,
   9702957262759964723063778740339903776323,
   9659258262890682867497431997288973676339,
   9612616959383188619164970485570648735257,
   9563047559630354813386508166184189620094,
   9510565162951535721164393333793821434057,
   9455185755993168103481247075194031776765,
   9396926207859083840541092773247314699362,
   9335804264972017489900430631395707414060,
   9271838545667874008064744511369569420976,
   9205048534524403273968947233004614202795,
   9135454576426008955021275719853171779408,
   9063077870366499632425526567543169832677] ++
  [8987940462991669927822956766957853549300,
   8910065241883678623597095714136263127705,
   8829475928589269420321713603157193860835,
   8746197071393958002846369586610795068563,
   8660254037844386467637231707529361834714,
   8571673007021122874652179801447633143841,
   8480480961564259703861761786903864487287,
   8386705679454240296375909418045478940395,
   8290375725550416920063368415016420263291,
   8191520442889917896844883859168434318900,
   8090169943749474241022934171828190588602,
   7986355100472928462840008040689362442663,
   7880107536067219566939777878358516666417] ++
  [7771459614569708799799377436724038490921,
   7660444431189780352023926505554166739358,
   7547095802227719979429842195610155580485,
   7431448254773942350146970489742569771891,
   7313537016191704832875436082756224033784,
   7193398003386511393560546744567119082307,
   7071067811865475244008443621048490392848,
   6946583704589972866564062994226862299198,
   6819983600624985004422257847111255803404,
   6691306063588582138262733306867804735996,
   6560590289905072847824959640234192475194,
   6427876096865393263226434099072634329076,
   6293203910498374527059024582799704265669] ++
  [6156614753256582796688110928436556282509,
   6018150231520482799179770004414898414256,
   5877852522924731291687059546390727685977,
   5735764363510460961080319128261578646204,
   5591929034707468301604281399859892873066,
   5446390350150270822240836920815653816079,
   5299192642332049540467811518160866687720,
   5150380749100542100816319363981382834161,
   5000000000000000000000000000000000000000,
   4848096202463370290753796224157765682767,
   4694715627858907759594622882278432957232,
   4539904997395467915604083663578711989830,
   4383711467890774174527345406582657390628] ++
  [4226182617406994361869784896477301815631,
   4067366430758002077539859903414976129231,
   3907311284892737550620845888890942676180,
   3746065934159120354149637745011951310002,
   3583679495453002734841377894134668341915,
   3420201433256687330440996146822595807631,
   3255681544571566687140089357947215717989,
   3090169943749474241022934171828190588602,
   2923717047227367280974686953771432526647,
   2756373558169991856499715746113041477124,
   2588190451025207623488988376240483283491,
   2419218955996677225604423741003529652950,
   2249510543438649980511072083427965586310] ++
  [2079116908177593371017422844051251662166,
   1908089953765448124051404879583876196279,
   1736481776669303488517166267693147960004,
   1564344650402308690101053194671668923139,
   1391731009600654441124966633011052754559,
   1218693434051474811128939192315251760132,
   1045284632676534713998341548024981190807,
   871557427476581735580642708374735513777,
   697564737441253007759588351941433286009,
   523359562429438327221186296090784187310,
   348994967025009716459951816253329373548,
   174524064372835128194189785163161924723,
   0]

/-- cos of 0 to 9 tenths of a degree. -/
def cosOfTenths : List Int :=
  [10000000000000000000000000000000000000000,
   9999984769132876988029012479257127656613,
   9999939076577903814779819307862414465470,
   9999862922474267926913884800440807463868,
   9999756307053947931101267136992466518205,
   9999619230641712887373551648269833270551,
   9999451693655121319820971014462798720400,
   9999253696604519944636725965333302823587,
   9999025240093042115512381079386921443974,
   9998766324816605986389071277312521744993]

/-- sin of 0 to 9 tenths of a degree. -/
def sinOfTenths : List Int :=
  [0,
   17453283658983088357782027208500494680,
   34906514152237322674044629932198697641,
   52359638314195800937603181664323516041,
   69812602979615524704608680987903868357,
   87265354983739349648882139735844230340,
   104717841162457934632253069670961316144,
   122170008352471688801577113481819905280,
   139621803391452716219113876967754624879,
   157073173118206757532953533099067700869]

/-- The cosine of 0 to 900 tenths: a whole degree from the table, else by the addition theorem from the degree below. -/
def cosFirst (a : Nat) : Int :=
  if a % 10 = 0 then cosDegrees.getD (a / 10) 0
  else
    (cosDegrees.getD (a / 10) 0 * cosOfTenths.getD (a % 10) 0
      - cosDegrees.getD (90 - a / 10) 0 * sinOfTenths.getD (a % 10) 0) / trigScale

/-- The cosine of an angle in tenths of a degree, scaled. -/
def cosScaled (angle : Int) : Int :=
  let a := (angle % 3600).toNat
  if a ≤ 900 then cosFirst a
  else if a ≤ 1800 then - cosFirst (1800 - a)
  else if a ≤ 2700 then - cosFirst (a - 1800)
  else cosFirst (3600 - a)

/-- The sine of an angle in tenths of a degree, scaled: the cosine of the angle less 90°. -/
def sinScaled (angle : Int) : Int := cosScaled (angle - 900)

end Sys2Proof.Machine
end

