-- ==== Sys2Proof/Machine/Pose.lean ====
section
/-! DEFINITION. The pose solver and the geometry table (chapter 2). -/
namespace Sys2Proof.Machine

/-! ### The pose -/

/-- The tilt-resolved boom angle θ (R24). -/
def tiltResolved (boom pitch roll slew : Int) : Int :=
  roundHalfUp (boom * trigScale + pitch * cosScaled slew + roll * sinScaled slew) trigScale

/-- Reach and height (R25). -/
def solvePosition (c : Crane) (theta stick ext : Int) : Position where
  reach := roundHalfUp ((c.lb : Int) * cosScaled theta + ((c.ls : Int) + ext) * cosScaled (theta + stick)) trigScale
  height := roundHalfUp ((c.h : Int) * trigScale + (c.lb : Int) * sinScaled theta + ((c.ls : Int) + ext) * sinScaled (theta + stick))
    trigScale

/-- The change in slew, taken the short way round (R26). -/
def slewChange (now before : Int) : Int :=
  let d := now - before
  if 1800 < d then d - 3600 else if d ≤ -1800 then d + 3600 else d

/-- A rate: change × 1,000 / P, truncated and held to 16 bits (R26). -/
def rateOf (change : Int) (p : Nat) : Int := clampInt (-32768) 32767 (Int.tdiv (change * 1000) p)

/-- The rates against the previous scan; P is the value loaded at its start, or the holding value after a SCAN_ONCE (R26). -/
def solveRates (prev : Option PrevScan) (period : Nat) (slew theta : Int) : Option Rates :=
  prev.map fun v =>
    let p := v.loaded.getD period
    ⟨rateOf (slewChange slew v.slew) p, rateOf (theta - v.theta) p⟩

/-- The geometry cell of θ and reach (R28). -/
def cellOf (theta reach : Int) : CellRef :=
  if -200 ≤ theta ∧ theta < 600 ∧ 2000 ≤ reach ∧ reach < 10000 then
    .cell (Fin.ofNat 16 ((theta + 200) / 50).toNat) (Fin.ofNat 8 ((reach - 2000) / 1000).toNat)
  else .outOfTable

/-- A channel 3 to 8 is not IN (R27). -/
def poseBandFails (scan : Scan) : Bool :=
  scan.band[3] != .inside || scan.band[4] != .inside || scan.band[5] != .inside || scan.band[6] != .inside
    || scan.band[7] != .inside || scan.band[8] != .inside

/-- The pose of a scan (R23 to R28). -/
def solvePose (crane : Option Crane) (prev : Option PrevScan) (period : Nat) (scan : Scan) : Pose :=
  let slew := scan.scaled[6]
  let theta := tiltResolved scan.scaled[3] scan.scaled[7] scan.scaled[8] slew
  { theta := theta
    slew := slew
    position := crane.map fun c =>
      let p := solvePosition c theta scan.scaled[4] scan.scaled[5]
      (p, cellOf theta p.reach)
    rates := solveRates prev period slew theta
    unset := crane.isNone
    band := poseBandFails scan
    unreferenced := !scan.referenced
    time := scan.time }

/-- A pose is valid when no reason applies (R27). -/
def Pose.valid (p : Pose) : Bool := !p.unset && !p.band && !p.unreferenced

/-! ### The geometry table -/

/-- The rows in order. -/
def rowList : List (Fin 16) := [0, 1, 2, 3, 4, 5, 6, 7, 8, 9, 10, 11, 12, 13, 14, 15]

/-- The number of rows in the written-row set (R30). -/
def Geometry.rowCount (g : Geometry) : Nat := (rowList.filter fun r => g.rows[r].isSome).length

/-- Every cell discarded, in the state given (R30). -/
def Geometry.discard (state : TableState) : Geometry := ⟨state, Vector.replicate 16 none⟩

/-- The six bytes of a cell: k, e, rated load (R34). -/
def Cell.bytes (c : Cell) : List Byte := be 2 c.k ++ be 2 c.e ++ be 2 c.rated

/-- The bytes of a row in column order (R34). -/
def rowBytes (row : Vector Cell 8) : List Byte := row.toList.flatMap Cell.bytes

/-- The table set out as a sequence of bytes (R34). -/
def Geometry.bytes (g : Geometry) : List Byte := g.rows.toList.flatMap fun r => partBytes rowBytes r

/-- The table check (R34). -/
def Geometry.crc (g : Geometry) : BitVec 16 := crc16 g.bytes

/-- The cell of a row number and a column number. -/
def Geometry.cell (g : Geometry) (row : Fin 16) (col : Fin 8) : Option Cell := g.rows[row].map fun r => r[col]

/-- The cell contents that the table supplies for a pose (R28), with the row and the column. -/
def supplied (g : Geometry) (p : Pose) : Option (Cell × Fin 16 × Fin 8) :=
  if p.valid && g.state == .valid then
    match p.position with
    | some (_, .cell row col) => (g.cell row col).map fun c => (c, row, col)
    | some (_, .outOfTable) => none
    | none => none
  else none

/-- The cells that a TABLE_WRITE carries (R32). -/
def cellsOf (cells : List (BitVec 16 × BitVec 16 × BitVec 16)) : Vector Cell 8 :=
  Vector.ofFn fun i =>
    let c := cells.getD i.val (0, 0, 0)
    ⟨c.1.toNat, c.2.1.toInt, c.2.2.toNat⟩

end Sys2Proof.Machine
end

