-- ==== Sys2Proof/Machine/Zones.lean ====
section
/-! DEFINITION. The zone table (chapter 3): the tests, the membership results and the summary. -/
namespace Sys2Proof.Machine

/-- The sector test (R40). -/
def inSector (z : Zone) (slew : Int) : Bool :=
  if z.sectorStart = z.sectorEnd then true
  else
    let around := fun d : Int => if d < 0 then d + 3600 else d
    around (slew - z.sectorStart) ≤ around ((z.sectorEnd : Int) - z.sectorStart)

/-- A zone contains the tip of a valid pose at this slew and position (R41). -/
def Zone.contains (z : Zone) (slew : Int) (p : Position) : Bool :=
  inSector z slew && z.reachMin ≤ p.reach && p.reach ≤ z.reachMax && z.heightMin ≤ p.height && p.height ≤ z.heightMax

/-- The membership result of an entry (R42). -/
def judgeEntry (pose : Pose) (contents : Option Zone) : Membership :=
  match contents with
  | none => .notJudged
  | some z =>
    if pose.valid then
      match pose.position with
      | some (p, _) => if z.contains pose.slew p then .inside else .outside
      | none => .notJudged
    else .notJudged

/-- The entry after a scan completion: judged afresh, its edited flag cleared (R42, R44). -/
def ZoneEntry.judge (pose : Pose) (e : ZoneEntry) : ZoneEntry := ⟨e.contents, judgeEntry pose e.contents, false⟩

/-- The level that a kind gives to a function of its set (R39). -/
def ZoneKind.levels : ZoneKind → PerFn Level
  | .weigh => .const .free
  | .bunk => .const .free
  | .slow f => (fnSet f).map fun b => if b then .slow else .free
  | .hold f => (fnSet f).map fun b => if b then .hold else .free

/-- The kind is SLOW or HOLD. -/
def ZoneKind.isPermit : ZoneKind → Bool
  | .weigh => false | .bunk => false | .slow _ => true | .hold _ => true

/-- The kinds of the entries INSIDE. -/
def insideKinds (entries : Vector ZoneEntry 16) : List ZoneKind :=
  entries.toList.filterMap fun e => if e.result = .inside then e.contents.map Zone.kind else none

/-- The membership summary (R43). -/
def summarize (entries : Vector ZoneEntry 16) : Summary :=
  let kinds := insideKinds entries
  { weigh := kinds.any (· == .weigh)
    bunk := kinds.any (· == .bunk)
    levels := kinds.foldl (fun acc k => acc.zip Level.max k.levels) (.const .free)
    inside := kinds.length
    permitInside := (kinds.filter ZoneKind.isPermit).length }

/-- The zone table at a scan completion (R42, R43). -/
def ZoneTable.judge (pose : Pose) (t : ZoneTable) : ZoneTable :=
  let entries := Vector.ofFn fun i : Fin 16 => t.entries[i].judge pose
  ⟨entries, some (summarize entries)⟩

/-- The levels that the ZONE source contributes after a summary (R46). -/
def zoneRow (summary : Option Summary) : PerFn Level :=
  match summary with
  | none => .const .free
  | some x => x.levels

end Sys2Proof.Machine
end

