-- ==== Sys2Proof/Machine/Window.lean ====
section
/-! DEFINITION. The weigh unit (chapter 5): the instantaneous weight, the sample tests, the window and its result, overload. -/
namespace Sys2Proof.Machine

/-- What one scan completion hands to its consumers (R2, R45): the scan, its pose, the two indications of its summary, and the cell
contents supplied with the cell's row and column (R28). -/
structure ScanView where
  scan : Scan
  pose : Pose
  weighZone : Bool
  bunkZone : Bool
  cell : Option (Cell × Fin 16 × Fin 8)
  tableValid : Bool
  deriving DecidableEq, Repr

/-! ### The thresholds (R54) -/

/-- GRIP_P of a scan is IN. -/
def Scan.gripIn (s : Scan) : Bool := s.band[2] == .inside

/-- A gripping scan: GRIP_P IN and at or above the grip threshold. -/
def Scan.gripping (p : WeighParams) (s : Scan) : Bool := s.gripIn && (p.grip : Int) ≤ s.scaled[2]

/-- A releasing scan: GRIP_P IN and below the release threshold. -/
def Scan.releasing (p : WeighParams) (s : Scan) : Bool := s.gripIn && s.scaled[2] < p.release

/-- GRIP_P was holding (R85): IN and at or above the release threshold. -/
def Scan.holding (p : WeighParams) (s : Scan) : Bool := s.gripIn && (p.release : Int) ≤ s.scaled[2]

/-! ### The instantaneous weight (R81 to R83) -/

/-- The net cylinder force in newtons (R83). -/
def netForce (c : Crane) (liftP liftR : Int) : Int := Int.tdiv (liftP * c.ap - liftR * c.ar) 10

/-- The weight in kg (R83): trim/1000 × (k × F / 10^6 − e), rounded half up, minus tare. -/
def weightOf (trim tare : Nat) (k : Nat) (e force : Int) : Int :=
  roundHalfUp ((trim : Int) * (k * force - e * 1000000)) 1000000000 - tare

/-- The trim and tare used for a scan, by what the weigh unit holds when it takes the scan (R81, R82); none when no weight is formed.
The grip scan named by a lift context gives none. -/
def weighFigures (w : Weigh) (op : Option Op) (now : Time) : Option (Nat × Nat) :=
  match w.context, op with
  | .lift c, _ => if c.latchScan = now then none else some (c.trim, c.tare)
  | .calibration c, _ => some (c.trim, c.tare)
  | .absent, some (.zero _ _ _) => some (w.params.trim, 0)
  | .absent, _ => none

/-- The instantaneous weight of a scan (R82). -/
def formWeight (figures : Option (Nat × Nat)) (crane : Option Crane) (v : ScanView) : Option Int :=
  match figures, crane, v.cell with
  | some (trim, tare), some c, some (cell, _, _) =>
    if v.scan.referenced && v.tableValid then
      some (weightOf trim tare cell.k cell.e (netForce c v.scan.scaled[0] v.scan.scaled[1]))
    else none
  | _, _, _ => none

/-! ### The sample test (R85, R86) -/

/-- An entry that does not exist counts as not holding (R85). -/
def entryHolding (e : Option HistoryEntry) : Bool := e.any HistoryEntry.holding

/-- A change of rate lies within plus or minus the motion limit. -/
def withinMotion (motion : Nat) (change : Int) : Bool := -(motion : Int) ≤ change && change ≤ motion

/-- Conditions 4 to 6 of R86: both rates present and their changes within the motion limit. -/
def steady (motion : Nat) (now newer : Option Rates) : Bool :=
  match now, newer with
  | some a, some b => withinMotion motion (a.slew - b.slew) && withinMotion motion (a.boom - b.boom)
  | _, _ => false

/-- The scan's w is an accepted sample (R86). -/
def acceptedSample (w : Weigh) (motion : Nat) (v : ScanView) (weight : Option Int) : Option Int :=
  if v.scan.holding w.params && entryHolding w.newer && entryHolding w.older
      && steady motion v.pose.rates (w.newer.bind HistoryEntry.rates) then weight
  else none

/-- The scan enters the history (R85). -/
def Weigh.enterHistory (v : ScanView) (w : Weigh) : Weigh :=
  { w with newer := some ⟨v.scan.holding w.params, v.pose.rates⟩, older := w.newer }

/-! ### Means, spreads and the stillness test (R92, R96) -/

/-- The last n of a list. -/
def lastOf (n : Nat) (l : List Int) : List Int := l.drop (l.length - n)

/-- A mean rounded half up; a mean below 0 is given as 0 (R96). -/
def meanWeight (l : List Int) : Nat := (roundHalfUp (sumInt l) l.length).toNat

/-- A spread, given as 65,535 when it is larger (R96). -/
def spreadGiven (l : List Int) : Nat := min (spreadOf l).toNat 65535

/-- Every sample lies within the tolerance of the exact mean (R92). -/
def stillSamples (tolerance : Nat) (l : List Int) : Bool :=
  l.all fun x =>
    let off := x * l.length - sumInt l
    off ≤ (tolerance : Int) * l.length && -((tolerance : Int) * l.length) ≤ off

/-! ### The steps of a judged scan (R89 to R93) -/

/-- The window opens, or its table-missed flag is set (R88, R90), while it is NONE. -/
def Window.openStep (v : ScanView) (w : Window) : Window :=
  if v.tableValid then (if v.weighZone then { w with state := .opened } else w) else { w with missed := true }

/-- The zone step (R90). -/
def Window.zoneStep (v : ScanView) (w : Window) : Window :=
  match w.state with
  | .unopened => w.openStep v
  | .opened => if v.weighZone then w else { w with state := .suspended }
  | .suspended => if v.weighZone then { w with state := .opened } else w
  | .frozen => w
  | .closed _ => w

/-- LIFT_P or LIFT_R is not IN (R91). -/
def liftBandFails (s : Scan) : Bool := s.band[0] != .inside || s.band[1] != .inside

/-- The stillness step and the budget step after a sample joined (R92, R93); a calibration context has no stillness count (R100). -/
def Window.closeSteps (budget : Nat) (still : Option (Nat × Nat)) (w : Window) : Window :=
  if still.any fun x => x.1 ≤ w.samples.length && stillSamples x.2 (lastOf x.1 w.samples) then
    { w with state := .closed .still }
  else if budget ≤ w.samples.length then { w with state := .closed .full }
  else w

/-- The fault step and the later steps (R89, R91): `sample` is the scan's accepted sample, if any. -/
def Window.laterSteps (v : ScanView) (budget : Nat) (still : Option (Nat × Nat)) (sample : Option Int) (w : Window) : Window :=
  if w.state = .opened then
    if liftBandFails v.scan then { w with state := .closed .fault }
    else match sample with
      | none => w
      | some x => { w with samples := w.samples ++ [x] }.closeSteps budget still
  else w

/-- The weigh unit judges a scan for the window of a lift (R89). -/
def LiftContext.judges (c : LiftContext) (p : WeighParams) (s : Scan) : Bool :=
  c.phase == .gripped && c.latchScan != s.time && c.thawScan != some s.time && !s.releasing p

/-- The window after a scan completion (R89, R100). -/
def windowAfter (w : Weigh) (v : ScanView) (weight : Option Int) : Window :=
  match w.context with
  | .absent => w.window
  | .lift c =>
    if c.judges w.params v.scan then
      (w.window.zoneStep v).laterSteps v c.budget (some (c.still, c.tolerance)) (acceptedSample w c.motion v weight)
    else w.window
  | .calibration c =>
    if v.scan.releasing w.params then w.window
    else w.window.laterSteps v c.budget none (acceptedSample w c.motion v weight)

/-! ### Overload (R101) -/

/-- The clear level of a rated load. -/
def clearLevel (rated : Nat) : Nat := rated * 95 / 100

/-- A context is held. -/
def Context.held : Context → Bool
  | .absent => false | .lift _ => true | .calibration _ => true

/-- A lift context is held. -/
def Context.isLift : Context → Bool
  | .lift _ => true | .calibration _ => false | .absent => false

/-- The overload after a weight is compared with a rated load. -/
def overloadAfter (asserted releasing : Bool) (weight : Int) (rated : Nat) : Bool :=
  if asserted then !(weight ≤ clearLevel rated) else (rated : Int) < weight && !releasing

/-- The overload evaluation of a scan (R101); a scan without w leaves the overload as it stands. -/
def evaluateOverload (w : Weigh) (v : ScanView) (weight : Option Int) : Bool :=
  match weight, v.cell with
  | some x, some (cell, _, _) =>
    if w.context.held then overloadAfter w.overload (v.scan.releasing w.params) x cell.rated else w.overload
  | _, _ => w.overload

/-- OVERLOAD at an assertion (R102). -/
def overloadEvents (before after : Bool) (v : ScanView) (weight : Option Int) : List Detail :=
  match weight, v.cell with
  | some x, some (cell, row, col) =>
    if !before && after then [.overload x cell.rated row col v.scan.time] else []
  | _, _ => []

/-! ### The weigh unit takes a scan -/

/-- The latest instantaneous weight after a scan (R82, R84). -/
def latestAfter (w : Weigh) (time : Time) (weight : Option Int) : Option LatestWeight :=
  match weight with
  | none => w.latest
  | some x => some ⟨x, time⟩

/-- The weigh unit after it has taken a scan, before the tracker's report of the same scan; the history is entered later. -/
def Weigh.takeScan (v : ScanView) (weight : Option Int) (w : Weigh) : Weigh :=
  { w with
    window := windowAfter w v weight
    overload := evaluateOverload w v weight
    latest := latestAfter w v.scan.time weight }

/-! ### Latch, freeze, thaw, close (R80, R94, R95, R100) -/

/-- A window that is NONE. -/
def Window.fresh : Window := ⟨.unopened, [], false⟩

/-- The latch at a grip (R80). -/
def Weigh.latch (tableValid : Bool) (now : Time) (w : Weigh) : Weigh :=
  { w with
    context := .lift ⟨w.params.budget, w.params.still, w.params.tolerance, w.params.motion, w.params.trim, w.params.tare, .gripped,
      now, none⟩
    window := ⟨.unopened, [], !tableValid⟩ }

/-- The context after a change of phase. -/
def Context.setPhase (phase : Phase) (thawScan : Option Time) : Context → Context
  | .lift c => .lift { c with phase := phase, thawScan := if thawScan.isSome then thawScan else c.thawScan }
  | .absent => .absent
  | .calibration c => .calibration c

/-- The freeze at a release (R94). -/
def Weigh.freeze (w : Weigh) : Weigh :=
  { w with
    context := w.context.setPhase .released none
    window := match w.window.state with
      | .opened => { w.window with state := .frozen }
      | .suspended => { w.window with state := .frozen }
      | .unopened => w.window
      | .frozen => w.window
      | .closed _ => w.window }

/-- The thaw at a regrip (R94). -/
def Weigh.thaw (now : Time) (w : Weigh) : Weigh :=
  { w with
    context := w.context.setPhase .gripped (some now)
    window := match w.window.state with
      | .frozen => { w.window with state := .suspended }
      | .opened => w.window
      | .suspended => w.window
      | .unopened => w.window
      | .closed _ => w.window }

/-- The window result (R95). -/
structure WindowResult where
  status : CloseStatus
  weight : Option Nat
  count : Nat
  spread : Nat
  deriving DecidableEq, Repr

/-- The status with which a window closes at finalization (R95). -/
def Window.closeStatus (w : Window) : CloseStatus :=
  match w.state with
  | .unopened => if w.missed then .noTable else .never
  | .opened => .short
  | .suspended => .short
  | .frozen => .short
  | .closed c => c

/-- The result of a window closed with this status under the stillness count S (R96). -/
def windowResult (still : Nat) (status : CloseStatus) (samples : List Int) : WindowResult :=
  match status with
  | .still => ⟨status, some (meanWeight (lastOf still samples)), samples.length, spreadGiven (lastOf still samples)⟩
  | .full => ⟨status, some (meanWeight samples), samples.length, spreadGiven samples⟩
  | .short => ⟨status, if still ≤ samples.length then some (meanWeight samples) else none, samples.length, spreadGiven samples⟩
  | .flushed => ⟨status, if still ≤ samples.length then some (meanWeight samples) else none, samples.length, spreadGiven samples⟩
  | .fault => ⟨status, none, samples.length, spreadGiven samples⟩
  | .noTable => ⟨status, none, 0, 0⟩
  | .never => ⟨status, none, 0, 0⟩

/-- The stillness count latched for the lift. -/
def Context.still : Context → Nat
  | .lift c => c.still | .absent => 0 | .calibration _ => 0

/-- The window result that finalization asks for (R95). -/
def Weigh.result (w : Weigh) : WindowResult := windowResult w.context.still w.window.closeStatus w.window.samples

/-- The weigh unit after the close at finalization: window NONE with its flag clear, no context, no overload (R95, R101). -/
def Weigh.release (w : Weigh) : Weigh := { w with context := .absent, window := Window.fresh, overload := false }

/-- The weigh unit after the tracker leaves CALIBRATION: window NONE with its list empty, no context, no overload (R100, R101). The
table-missed flag is cleared at a finalization alone (R88, log 26). -/
def Weigh.leaveCalibration (w : Weigh) : Weigh :=
  { w with context := .absent, window := ⟨.unopened, [], w.window.missed⟩, overload := false }

/-- SPAN accepted (R100): the calibration context, and the window open at once; the table-missed flag stands (R88, log 26). -/
def Weigh.startSpan (w : Weigh) : Weigh :=
  { w with context := .calibration ⟨64, w.params.motion, 1000, w.params.tare⟩, window := ⟨.opened, [], w.window.missed⟩ }

/-- SPAN aborted: its OPEN window closes SHORT (R100). -/
def Weigh.abortSpan (w : Weigh) : Weigh :=
  if w.window.state = .opened then { w with window := { w.window with state := .closed .short } } else w

end Sys2Proof.Machine
end

