-- ==== Sys2Proof/Machine/Records.lean ====
section
/-! DEFINITION. The record queue (chapter 7): counts, the gap accumulator, admission and folding, RECORDS_READY, offers and removal. -/
namespace Sys2Proof.Machine

/-- The record is a lift record (R125). -/
def Record.isLift : Record → Bool
  | .lift _ => true | .load _ => false

/-- Lift records held and load records held. -/
def RecordQueue.lifts (q : RecordQueue) : Nat := (q.records.filter fun h => h.record.isLift).length
def RecordQueue.loads (q : RecordQueue) : Nat := (q.records.filter fun h => !h.record.isLift).length

/-- The accumulator with nothing in it (R127). -/
def Gap.zero : Gap := ⟨0, 0, 0, 0⟩

/-- The accumulator is non-empty: its lifts sum is not 0 (R127). -/
def Gap.nonEmpty (g : Gap) : Bool := g.lifts != 0

/-- The gap part that a record admitted now carries (R128, R131). -/
def Gap.part (g : Gap) : Option Gap := if g.nonEmpty then some g else none

/-- The largest loaded or unloaded sum (R127). -/
abbrev maxSum : Nat := 16777215

/-- Netting (R129). -/
def Gap.net (g : Gap) : Gap :=
  let n : Int := (g.loaded : Int) + g.adjusted - g.unloaded
  if 0 ≤ n then ⟨g.lifts, n.toNat, 0, 0⟩ else ⟨g.lifts, 0, (-n).toNat, 0⟩

/-- An adjusted sum lies in its range (R127). -/
def adjustedFits (a : Int) : Bool := -8388608 ≤ a && a ≤ 8388607

/-- The fold's amount fits beside the sum its direction names (R129). -/
def Gap.fits (g : Gap) (d : Direction) (applied : Int) : Bool :=
  match d with
  | .load => g.loaded + applied.natAbs ≤ maxSum
  | .unload => g.unloaded + applied.natAbs ≤ maxSum
  | .adjust => adjustedFits (g.adjusted + applied)
  | .shift => true
  | .returned => true

/-- The amount added to the sum that the direction names (R127, R129). -/
def Gap.add (g : Gap) (d : Direction) (applied : Int) : Gap :=
  match d with
  | .load => { g with loaded := g.loaded + applied.natAbs }
  | .unload => { g with unloaded := g.unloaded + applied.natAbs }
  | .adjust => { g with adjusted := g.adjusted + applied }
  | .shift => g
  | .returned => g

/-- A fold (R129): the sums netted first when the amount would not fit; the lifts sum stays at 255. -/
def Gap.fold (g : Gap) (d : Direction) (applied : Int) : Gap :=
  let g' := if g.fits d applied then g else g.net
  { g'.add d applied with lifts := satInc 255 g'.lifts }

/-- At least threshold records held, or a load record held (R134). -/
def RecordQueue.readyNow (q : RecordQueue) : Bool := q.threshold ≤ q.records.length || q.loads != 0

/-- The RECORDS_READY of an admission in POLLED mode (R134); `q` is the queue after it. -/
def admissionReady (q : RecordQueue) (isLoad : Bool) (now : Time) : List Detail :=
  if q.mode = .polled then
    if isLoad then [.recordsReady .load q.lifts q.loads now]
    else if q.records.length = q.threshold then [.recordsReady .threshold q.lifts q.loads now]
    else []
  else []

/-- The RECORDS_READY of an accepted SET_STREAM or of a link reset (R134). -/
def settingReady (cause : ReadyCause) (q : RecordQueue) (now : Time) : List Detail :=
  if q.mode = .polled && q.readyNow then [.recordsReady cause q.lifts q.loads now] else []

/-- What the queue does with a lift record or an adjustment record: the queue after it, its events, whether it was admitted (R128 to
R130). -/
def RecordQueue.takeLift (q : RecordQueue) (r : LiftRecord) (now : Time) : RecordQueue × List Detail × Bool :=
  if q.lifts < 30 then
    let q' := { q with records := q.records ++ [⟨.lift { r with gap := q.gap.part }, false⟩], gap := .zero }
    (q', admissionReady q' false now, true)
  else
    let q' := { q with gap := q.gap.fold r.direction r.applied }
    (q', if q.gap.nonEmpty then [] else [.recordGap r.loadNumber r.liftNumber r.direction q.lifts q.loads now], false)

/-- The admission of a load record (R131). -/
def RecordQueue.takeLoad (q : RecordQueue) (r : LoadRecord) (now : Time) : RecordQueue × List Detail :=
  let q' := { q with records := q.records ++ [⟨.load { r with gap := q.gap.part }, false⟩], gap := .zero }
  (q', admissionReady q' true now)

/-! ### Delivery (R132, R133, R135) -/

/-- The records whose mark is clear, in order. -/
def RecordQueue.unmarked (q : RecordQueue) : List HeldRecord := q.records.filter fun h => !h.marked

/-- The mark set on the first n records whose mark is clear. -/
def markFirst : Nat → List HeldRecord → List HeldRecord
  | 0, l => l
  | _ + 1, [] => []
  | n + 1, h :: t => if h.marked then h :: markFirst (n + 1) t else { h with marked := true } :: markFirst n t

/-- The record offered to the transmit line (R133). -/
def RecordQueue.offered (q : RecordQueue) : Option Record :=
  match q.mode with
  | .polled => none
  | .stream => (q.unmarked.head?).map HeldRecord.record

/-- The bytes that a record takes in a FETCH_RECORDS reply: its length in one byte, then the record (R199). -/
def fetchedBytes (r : Record) : List Byte := be 1 r.bytes.length ++ r.bytes

/-- The records a FETCH_RECORDS reply carries (R135): up to n, as long as each fits in the room left. -/
def fetchTake : Nat → Nat → List HeldRecord → List Record
  | 0, _, _ => []
  | _ + 1, _, [] => []
  | n + 1, room, h :: t =>
    let size := (fetchedBytes h.record).length
    if size ≤ room then h.record :: fetchTake n (room - size) t else []

/-- The first n records leave the queue (R132). -/
def RecordQueue.remove (n : Nat) (q : RecordQueue) : RecordQueue := { q with records := q.records.drop n }

/-- The record queue at a link reset (R138). -/
def RecordQueue.linkReset (keep : Bool) (q : RecordQueue) : RecordQueue :=
  { q with
    records := q.records.map fun h => { h with marked := false }
    mode := if keep then q.mode else .polled
    threshold := if keep then q.threshold else 4 }

end Sys2Proof.Machine
end

