-- ==== Sys2Proof/Machine/Tally.lean ====
section
/-! DEFINITION. The tally (chapter 6): applying a lift, an adjustment, closing a load. -/
namespace Sys2Proof.Machine

/-- The sorts in order, counted from 0. -/
def sortList : List (Fin 12) := [0, 1, 2, 3, 4, 5, 6, 7, 8, 9, 10, 11]

/-- The largest bunk weight (R104). -/
abbrev maxBunk : Nat := 99999

/-- The bunk total (R104). -/
def Tally.total (t : Tally) : Nat := (t.entries.toList.map SortEntry.bunk).sum

/-- The next lift number advances and stays at 65,535 (R105). -/
def Tally.advance (t : Tally) : Tally := { t with nextLift := satInc 65535 t.nextLift }

/-- One sort entry replaced. -/
def Tally.setEntry (t : Tally) (sort : Fin 12) (e : SortEntry) : Tally := { t with entries := t.entries.set sort e }

/-! ### Applying a lift (R106 to R110) -/

/-- The applied amount of a LOAD lift of weight W (R107). -/
def loadApplied (e : SortEntry) (w : Nat) : Nat := min w (min (maxBunk - e.bunk) (maxSum - e.loaded))

/-- The applied amount of an UNLOAD lift of weight W (R108). -/
def unloadApplied (e : SortEntry) (w : Nat) : Nat := min w (min e.bunk (maxSum - e.unloaded))

/-- The sort entry after a LOAD lift; a lift without weight applies 0 (R107, R110). -/
def SortEntry.load (e : SortEntry) (weight : Option Nat) : SortEntry :=
  let a := loadApplied e (weight.getD 0)
  { e with bunk := e.bunk + a, loaded := e.loaded + a, loadLifts := satInc 255 e.loadLifts }

/-- The sort entry after an UNLOAD lift (R108, R110). -/
def SortEntry.unload (e : SortEntry) (weight : Option Nat) : SortEntry :=
  let a := unloadApplied e (weight.getD 0)
  { e with bunk := e.bunk - a, unloaded := e.unloaded + a, unloadLifts := satInc 255 e.unloadLifts }

/-- The applied amount of a lift, with its sign (R107 to R111). -/
def liftApplied (e : SortEntry) (d : Direction) (weight : Option Nat) : Int :=
  match d with
  | .load => loadApplied e (weight.getD 0)
  | .unload => -(unloadApplied e (weight.getD 0) : Int)
  | .shift => 0
  | .returned => 0
  | .adjust => 0

/-- The lift is LOAD or UNLOAD. -/
def Direction.changesBunk : Direction → Bool
  | .load => true | .unload => true | .shift => false | .returned => false | .adjust => false

/-- The lift is unweighed (R110). -/
def unweighedLift (d : Direction) (weight : Option Nat) : Bool := d.changesBunk && weight.isNone

/-- An excess is carried when it is above 0 (R111). -/
def excessGiven (n : Nat) : Option Nat := if n = 0 then none else some n

/-- The excess of a lift: W minus the applied amount for LOAD and UNLOAD (R107, R108); none for SHIFT and RETURN (R109). -/
def liftExcess (e : SortEntry) (d : Direction) (weight : Option Nat) : Option Nat :=
  if d.changesBunk then weight.bind fun w => excessGiven (w - (liftApplied e d weight).natAbs) else none

/-- The tally after the lift is applied to its sort and counted (R107 to R110); the numbers advance too (R106 step 1). -/
def Tally.apply (t : Tally) (sort : Fin 12) (d : Direction) (weight : Option Nat) : Tally :=
  let t := t.advance
  let t := if unweighedLift d weight then { t with unweighed := satInc 65535 t.unweighed } else t
  match d with
  | .load => t.setEntry sort (t.entries[sort].load weight)
  | .unload => t.setEntry sort (t.entries[sort].unload weight)
  | .shift => { t with shifts := satInc 65535 t.shifts }
  | .returned => { t with returns := satInc 65535 t.returns }
  | .adjust => t

/-! ### Adjustments (R115) -/

/-- The applied amount of an adjustment A, with its sign. -/
def adjustApplied (e : SortEntry) (a : Int) : Int :=
  if 0 < a then min a (min ((maxBunk : Int) - e.bunk) (8388607 - e.adjusted))
  else if a < 0 then -(min (-a) (min (e.bunk : Int) (e.adjusted + 8388608)))
  else 0

/-- The sort entry after an adjustment. -/
def SortEntry.adjust (e : SortEntry) (a : Int) : SortEntry :=
  { e with bunk := ((e.bunk : Int) + adjustApplied e a).toNat, adjusted := e.adjusted + adjustApplied e a }

/-- The tally after an accepted TALLY_ADJUST. -/
def Tally.adjust (t : Tally) (sort : Fin 12) (a : Int) : Tally := t.advance.setEntry sort (t.entries[sort].adjust a)

/-- The adjustment record (R116). -/
def adjustRecord (t : Tally) (sort : Fin 12) (a : Int) (now : Time) : LiftRecord :=
  let applied := adjustApplied t.entries[sort] a
  { loadNumber := t.loadNumber, liftNumber := t.nextLift, direction := .adjust, sort := sort
    marked := false, overloadSeen := false, unweighed := false, weight := none
    excess := excessGiven (a.natAbs - applied.natAbs)
    regrips := 0, status := none, count := 0, spread := 0, origin := none, destination := none
    gripTime := now, finalTime := now, reach := 0, slew := 0, applied := applied, gap := none }

/-! ### The payload limit (R113) -/

/-- PAYLOAD_LIMIT when a LOAD lift takes the bunk total from at or below the limit to above it. -/
def payloadEvents (before after : Tally) (sort : Fin 12) (d : Direction) (applied : Int) (finalTime : Time) : List Detail :=
  if d = .load && before.total ≤ before.limit && before.limit < after.total then
    [.payloadLimit before.loadNumber before.nextLift sort applied after.total before.limit finalTime]
  else []

/-! ### Closing a load (R118 to R120) -/

/-- A sort has activity in the load (R119). -/
def SortEntry.active (e : SortEntry) : Bool :=
  e.loaded != 0 || e.unloaded != 0 || e.adjusted != 0 || e.loadLifts != 0 || e.unloadLifts != 0

/-- The entries of the load record, in ascending sort order (R119). -/
def Tally.closing (t : Tally) : List LoadEntry :=
  sortList.filterMap fun s => if 0 < t.entries[s].bunk || t.entries[s].active then some ⟨s, t.entries[s]⟩ else none

/-- The load record of the current load (R119). -/
def Tally.loadRecord (t : Tally) (mode : CloseMode) (now : Time) : LoadRecord :=
  { loadNumber := t.loadNumber, mode := mode, openTime := t.openTime, closeTime := now, opening := t.opening, final := t.total
    shifts := t.shifts, returns := t.returns, unweighed := t.unweighed, entries := t.closing, gap := none }

/-- A sort entry at the start of a load (R120). -/
def SortEntry.renew (mode : CloseMode) (e : SortEntry) : SortEntry :=
  ⟨if mode = .carry then e.bunk else 0, 0, 0, 0, 0, 0⟩

/-- The new load (R120). -/
def Tally.newLoad (t : Tally) (mode : CloseMode) (now : Time) : Tally :=
  { t with
    entries := Vector.ofFn fun i : Fin 12 => t.entries[i].renew mode
    loadNumber := if t.loadNumber = 65535 then 1 else t.loadNumber + 1
    opening := if mode = .carry then t.total else 0
    nextLift := 1
    shifts := 0
    returns := 0
    unweighed := 0
    openTime := now }

end Sys2Proof.Machine
end

