-- ==== Sys2Proof/Machine/Lifts.lean ====
section
/-! DEFINITION. The lift tracker (chapter 4): the transitions that a scan completion causes, and finalization. -/
namespace Sys2Proof.Machine

/-- Origin or destination candidate from a bunk indication (R57, R58). -/
def placeOf (bunk : Bool) : Place := if bunk then .bunk else .field

/-- The direction of a lift (R64). -/
def directionOf : Place → Place → Direction
  | .field, .bunk => .load
  | .bunk, .field => .unload
  | .bunk, .bunk => .shift
  | .field, .field => .returned

/-- The lift record of a finalized lift (R111); `t` is the tally before the lift. -/
def liftRecord (t : Tally) (lift : Lift) (rel : Release) (finalTime : Time) (r : WindowResult) : LiftRecord :=
  let d := directionOf lift.origin rel.destination
  let e := t.entries[lift.sort]
  { loadNumber := t.loadNumber, liftNumber := t.nextLift, direction := d, sort := lift.sort
    marked := lift.marked, overloadSeen := lift.overloadSeen, unweighed := unweighedLift d r.weight
    weight := r.weight, excess := liftExcess e d r.weight
    regrips := lift.regrips, status := some r.status, count := r.count, spread := r.spread
    origin := some lift.origin, destination := some rel.destination
    gripTime := lift.gripTime, finalTime := finalTime, reach := rel.reach, slew := rel.slew
    applied := liftApplied e d r.weight, gap := none }

/-- LIFT_UNWEIGHED (R110). -/
def unweighedEvents (lr : LiftRecord) (r : WindowResult) : List Detail :=
  if lr.unweighed then
    [.liftUnweighed lr.loadNumber lr.liftNumber lr.direction lr.sort r.status r.count lr.finalTime]
  else []

/-- LIFT_DONE (R66). -/
def liftDoneEvent (lr : LiftRecord) (r : WindowResult) : Detail :=
  .liftDone lr.loadNumber lr.liftNumber lr.direction lr.sort r.status r.weight lr.finalTime

/-- Finalization (R63, R106): the state after it, and the occurrences in order: the record queue's, LIFT_UNWEIGHED, PAYLOAD_LIMIT,
LIFT_DONE. The OVERLOAD row and the outputs are the caller's, since a scan completion updates them together with other rows. -/
def finalize (lift : Lift) (rel : Release) (finalTime : Time) (s : State) : State × List Detail :=
  let r := s.weigh.result
  let lr := liftRecord s.tally lift rel finalTime r
  let q := s.records.takeLift lr s.time
  let t := s.tally.apply lift.sort lr.direction r.weight
  ({ s with tally := t, records := q.1, weigh := s.weigh.release, tracker := { s.tracker with state := .empty } },
    q.2.1 ++ unweighedEvents lr r ++ payloadEvents s.tally t lift.sort lr.direction lr.applied finalTime ++ [liftDoneEvent lr r])

/-! ### The transitions of a scan completion (R57 to R60, R68) -/

/-- The new lift of a grip scan (R57). -/
def newLift (k : Tracker) (v : ScanView) : Lift := ⟨placeOf v.bunkZone, k.sort, v.scan.time, 0, false, false⟩

/-- What a release scan latches (R58). -/
def releaseOf (v : ScanView) : Release :=
  ⟨placeOf v.bunkZone, v.scan.time, (v.pose.position.map fun p => p.1.reach).getD 0, v.pose.slew⟩

/-- The lift after a regrip (R60). -/
def regripped (l : Lift) : Lift := { l with regrips := satInc 255 l.regrips }

/-- A gripping scan, taken by the tracker (R57, R60). -/
def trackGripping (v : ScanView) (s : State) : State × List Detail :=
  match s.tracker.state with
  | .empty =>
    ({ s with tracker := { s.tracker with state := .gripped (newLift s.tracker v) }, weigh := s.weigh.latch v.tableValid v.scan.time },
      [])
  | .releaseHold l _ _ =>
    ({ s with tracker := { s.tracker with state := .gripped (regripped l) }, weigh := s.weigh.thaw v.scan.time }, [])
  | .gripped _ => (s, [])
  | .calibration => (s, [])
  | .held => (s, [])

/-- A releasing scan, taken by the tracker (R58, R59, R68). -/
def trackReleasing (v : ScanView) (s : State) : State × List Detail :=
  match s.tracker.state with
  | .gripped l =>
    if s.weigh.params.regrip = 0 then finalize l (releaseOf v) v.scan.time s
    else
      ({ s with
          tracker := { s.tracker with
            state := .releaseHold l (releaseOf v) (addMs v.scan.time s.weigh.params.regrip) }
          weigh := s.weigh.freeze }, [])
  | .calibration => ({ s with tracker := { s.tracker with state := .empty }, weigh := s.weigh.leaveCalibration }, [])
  | .empty => (s, [])
  | .releaseHold _ _ _ => (s, [])
  | .held => (s, [])

/-- The tracker judges a scan (R53, R54): gripping, releasing, or neither. -/
def track (v : ScanView) (s : State) : State × List Detail :=
  if v.scan.gripping s.weigh.params then trackGripping v s
  else if v.scan.releasing s.weigh.params then trackReleasing v s
  else (s, [])

/-! ### Flags of the lift in progress -/

/-- The lift in progress changed by `f`, where there is one (R70, R72 to R74). -/
def TrackerState.mapLift (f : Lift → Lift) : TrackerState → TrackerState
  | .gripped l => .gripped (f l)
  | .releaseHold l r e => .releaseHold (f l) r e
  | .empty => .empty
  | .calibration => .calibration
  | .held => .held

/-- The lift in progress. -/
def TrackerState.lift : TrackerState → Option Lift
  | .gripped l => some l
  | .releaseHold l _ _ => some l
  | .empty => none
  | .calibration => none
  | .held => none

/-- MARKED set on the lift in progress, if there is one (R72, R73). -/
def Tracker.markLift (k : Tracker) : Tracker := { k with state := k.state.mapLift fun l => { l with marked := true } }

/-- OVERLOAD_SEEN set on the lift in progress (R74). -/
def Tracker.seeOverload (k : Tracker) : Tracker := { k with state := k.state.mapLift fun l => { l with overloadSeen := true } }

/-- The regrip timer expires now (R61). -/
def Tracker.timerDue (now : Time) (k : Tracker) : Bool :=
  match k.state with
  | .releaseHold _ _ e => e == now
  | .empty => false
  | .gripped _ => false
  | .calibration => false
  | .held => false

end Sys2Proof.Machine
end

