-- ==== Sys2Proof/Machine/Operation.lean ====
section
/-! DEFINITION. The operation unit (chapter 8): what a scan completion does to a running operation, and the abort. -/
namespace Sys2Proof.Machine

/-- The slot at the end of an operation: IDLE, with the last result (R139). -/
def OpUnit.ended (d : OpDoneDetail) : OpUnit := ⟨none, some ⟨d.kind, d.result, d.time⟩⟩

/-- What a scan completion does to the slot: the slot after it, the end if there is one, and the tare or the trim written at DONE. -/
structure OpStep where
  slot : Option Op
  done : Option OpDoneDetail
  tare : Option Nat
  trim : Option Nat
  deriving DecidableEq, Repr

/-- The operation runs on. -/
def OpStep.running (slot : Option Op) : OpStep := ⟨slot, none, none, none⟩

/-- The operation ends. -/
def OpStep.ends (d : OpDoneDetail) : OpStep := ⟨none, some d, none, none⟩

/-- ZERO collects its thirty-second weight (R147); `sum` is the sum of the 32. -/
def zeroComplete (sum : Int) (skipped : Nat) (now : Time) : OpStep :=
  let mean := roundHalfUp sum 32
  if 0 ≤ mean ∧ mean ≤ 2000 then
    { OpStep.ends ⟨.zero, .done, some mean, 32, skipped, some mean, none, now⟩ with tare := some mean.toNat }
  else .ends ⟨.zero, .failed .range, some mean, 32, skipped, some mean, none, now⟩

/-- ZERO takes a scan (R145, R146). -/
def zeroAtScan (count : Nat) (sum : Int) (skipped : Nat) (p : WeighParams) (scan : Scan) (weight : Option Int) : OpStep :=
  if scan.gripping p then .ends ⟨.zero, .failed .gripped, none, count, skipped, none, none, scan.time⟩
  else
    match weight, scan.gripIn with
    | some w, true =>
      if 32 ≤ count + 1 then zeroComplete (sum + w) skipped scan.time
      else .running (some (.zero (count + 1) (sum + w) skipped))
    | _, _ =>
      if 8 ≤ skipped + 1 then .ends ⟨.zero, .failed .unreferenced, none, count, skipped + 1, none, none, scan.time⟩
      else .running (some (.zero count sum (skipped + 1)))

/-- SPAN's window closes FULL (R150): Σ is the sum of the samples. -/
def spanComplete (mass : Nat) (samples : List Int) (now : Time) : OpStep :=
  let sum := sumInt samples
  let mean := roundHalfUp sum 64
  let trim := roundHalfUp (1000 * (mass : Int) * 64) sum
  if sum ≤ 0 then .ends ⟨.span, .failed .range, none, samples.length, 0, some mean, some mass, now⟩
  else if 800 ≤ trim ∧ trim ≤ 1250 then
    { OpStep.ends ⟨.span, .done, some trim, samples.length, 0, some mean, some mass, now⟩ with trim := some trim.toNat }
  else .ends ⟨.span, .failed .range, some trim, samples.length, 0, some mean, some mass, now⟩

/-- SPAN takes a scan (R149, R151); `window` is the SPAN window once the weigh unit has judged the scan. -/
def spanAtScan (mass : Nat) (p : WeighParams) (scan : Scan) (window : Window) : OpStep :=
  if scan.releasing p then
    .ends ⟨.span, .failed .released, none, window.samples.length, 0, none, some mass, scan.time⟩
  else
    match window.state with
    | .closed .full => spanComplete mass window.samples scan.time
    | .closed .fault => .ends ⟨.span, .failed .band, none, window.samples.length, 0, none, some mass, scan.time⟩
    | _ => .running (some (.span mass))

/-- SCAN_ONCE takes a completion: its own scan completes it (R17). -/
def onceAtScan (own : Bool) (now : Time) : OpStep :=
  if own then .ends ⟨.scanOnce, .done, some now.toNat, 0, 0, none, none, now⟩ else .running (some .scanOnce)

/-- The operation unit takes a scan completion. -/
def opAtScan (slot : Option Op) (own : Bool) (p : WeighParams) (scan : Scan) (weight : Option Int) (window : Window) : OpStep :=
  match slot with
  | none => .running none
  | some (.zero count sum skipped) => zeroAtScan count sum skipped p scan weight
  | some (.span mass) => spanAtScan mass p scan window
  | some .scanOnce => onceAtScan own scan.time

/-- The operation unit after the step. -/
def OpStep.unit (o : OpStep) (last : Option LastResult) : OpUnit :=
  match o.done with
  | none => ⟨o.slot, last⟩
  | some d => .ended d

/-- OP_DONE, when the operation ended. -/
def OpStep.events (o : OpStep) : List Detail :=
  match o.done with
  | none => []
  | some d => [.opDone d]

/-- The tare and the trim written at DONE (R147, R150). -/
def OpStep.write (o : OpStep) (p : WeighParams) : WeighParams :=
  { p with tare := o.tare.getD p.tare, trim := o.trim.getD p.trim }

/-! ### Aborting (R142, R143) -/

/-- The end that an abort gives a running operation (R141). -/
def abortDetail (cause : AbortCause) (s : State) : Option OpDoneDetail :=
  match s.op.slot with
  | none => none
  | some (.zero count _ skipped) => some ⟨.zero, .aborted cause, none, count, skipped, none, none, s.time⟩
  | some (.span mass) => some ⟨.span, .aborted cause, none, s.weigh.window.samples.length, 0, none, some mass, s.time⟩
  | some .scanOnce => some ⟨.scanOnce, .aborted cause, none, 0, 0, none, none, s.time⟩

/-- The abort of SCAN_ONCE stops the operation's own scan and no other (R18). -/
def Scanner.stopOnce (c : Scanner) : Scanner :=
  match c.running with
  | some r => if r.isOnce then { c with running := none } else c
  | none => c

/-- The abort of whatever runs: the state after it, without its OP_DONE. Nothing changes when the slot is IDLE. -/
def abortState (cause : AbortCause) (s : State) : State :=
  match s.op.slot, abortDetail cause s with
  | some (.span _), some d => { s with op := .ended d, weigh := s.weigh.abortSpan }
  | some .scanOnce, some d => { s with op := .ended d, scanner := s.scanner.stopOnce }
  | some (.zero _ _ _), some d => { s with op := .ended d }
  | _, _ => s

/-- The OP_DONE of an abort. -/
def abortEvents (cause : AbortCause) (s : State) : List Detail := ((abortDetail cause s).map Detail.opDone).toList

end Sys2Proof.Machine
end

