-- ==== Sys2Proof/Machine/Scans.lean ====
section
/-! DEFINITION. SCAN_COMPLETION (R2) and SCAN_TIMER_EXPIRY (R5): one completed scan through every block that takes it. -/
namespace Sys2Proof.Machine

/-- The scan that raw counts give now (R2). -/
def completedScan (raw : Vector (BitVec 16) 12) (s : State) : Scan := judgeScan s.scanner.channels raw s.time

/-- The pose solved from it (R23). -/
def completedPose (raw : Vector (BitVec 16) 12) (s : State) : Pose :=
  solvePose s.pose.crane s.pose.prev s.scanner.period (completedScan raw s)

/-- The zone table after it (R42). -/
def completedZones (raw : Vector (BitVec 16) 12) (s : State) : ZoneTable := s.zones.judge (completedPose raw s)

/-- What the scan hands to the tracker, the weigh unit and the operation unit (R2, R28, R45). -/
def scanView (raw : Vector (BitVec 16) 12) (s : State) : ScanView :=
  let summary := (completedZones raw s).summary
  { scan := completedScan raw s
    pose := completedPose raw s
    weighZone := summary.any Summary.weigh
    bunkZone := summary.any Summary.bunk
    cell := supplied s.table (completedPose raw s)
    tableValid := s.table.state == .valid }

/-- The instantaneous weight of the scan, by what the weigh unit holds before the tracker's report (R82). -/
def scanWeight (v : ScanView) (s : State) : Option Int :=
  formWeight (weighFigures s.weigh s.op.slot v.scan.time) s.pose.crane v

/-- The scanner, the pose solver and the zone table after the completion (R2, R14, R23, R26, R42). -/
def takeGeometry (run : ScanRun) (raw : Vector (BitVec 16) 12) (v : ScanView) (s : State) : State :=
  { s with
    scanner := { s.scanner with running := none, latest := some v.scan }
    pose := { s.pose with latest := some v.pose, prev := some ⟨v.pose.slew, v.pose.theta, run.loaded⟩ }
    zones := completedZones raw s }

/-- The weigh unit takes the scan before the tracker's report; an assertion under a lift context marks the lift in progress (R74,
R102). -/
def takeWeight (v : ScanView) (weight : Option Int) (s : State) : State :=
  let w := s.weigh.takeScan v weight
  { s with
    weigh := w
    tracker := if !s.weigh.overload && w.overload && s.weigh.context.isLift then s.tracker.seeOverload else s.tracker }

/-- The latest instantaneous weight after the tracker's report. Where the report made or ended a context, the weigh unit may have
taken the scan after it (R59, R68, R80), and then no weight was formed: a free choice (log 9). -/
def settleLatest (before : State) (after : Weigh) : Weigh :=
  if before.weigh.context.held != after.context.held && freeBool before.free 1000 then { after with latest := before.weigh.latest }
  else after

/-- The rows of the contribution table that a scan completion reports together (R46, R101, R155, R156). -/
def scanRows (v : ScanView) (zones : ZoneTable) (overload : Bool) (c : Contributions) : Contributions :=
  { c with
    zone := zoneRow zones.summary
    pose := if v.pose.valid then rowNone else rowSlowAll
    overload := if overload then rowOverload else rowNone }

/-- Everything a scan completion does to the blocks but the event unit, and the occurrences, one list for each block that owns
some. -/
def afterScan (run : ScanRun) (raw : Vector (BitVec 16) 12) (s : State) : State × List (List Detail) :=
  let v := scanView raw s
  let weight := scanWeight v s
  let s1 := takeWeight v weight (takeGeometry run raw v s)
  let o := opAtScan s.op.slot run.isOnce s.weigh.params v.scan weight s1.weigh.window
  let tracked := track v s1
  let s2 := tracked.1
  let w := (settleLatest s s2.weigh).enterHistory v
  let rows := scanRows v s2.zones w.overload s2.permit.rows
  let p := { s2.permit with rows := rows }
  let onceRuns := o.slot == some .scanOnce
  ({ s2 with
      weigh := { w with params := o.write w.params }
      op := o.unit s.op.last
      permit := p.evaluate
      scanner := s2.scanner.startWaiting onceRuns s.time },
    [channelBandEvents s.scanner v.scan ++ refFaultEvents s.scanner v.scan,
     overloadEvents s.weigh.overload s1.weigh.overload v weight,
     tracked.2, o.events, p.holdEvent .scan s.time])

/-- A scan completion: the occurrences of different blocks reach the event unit in a free order (R169, log 8). -/
def completeScan (run : ScanRun) (raw : Vector (BitVec 16) 12) (s : State) : State :=
  let r := afterScan run raw s
  { r.1 with free := s.free + 1 }.raiseAll (merged s.free r.2)

/-- SCAN_COMPLETION: taken when a scan is in progress and its conversions can have ended (log 3). -/
def scanCompletion (raw : Vector (BitVec 16) 12) (s : State) : State :=
  match s.scanner.running with
  | none => s
  | some run => if run.canComplete s.time then completeScan run raw s else s

/-- SCAN_TIMER_EXPIRY (R5): in AUTO, at the expiry, a scan starts and the timer is reloaded. -/
def scanTimerExpiry (s : State) : State :=
  if s.scanner.timerDue s.time then { s with scanner := s.scanner.expire s.time } else s

/-- REGRIP_TIMER_EXPIRY (R61): the lift is finalized, the standing overload cleared, and the outputs evaluated (R155, R156). -/
def regripTimerExpiry (s : State) : State :=
  match s.tracker.state with
  | .releaseHold l rel expiry =>
    if expiry = s.time then
      let r := finalize l rel s.time s
      (r.1.raiseAll r.2).clearOverloadRow
    else s
  | .empty => s
  | .gripped _ => s
  | .calibration => s
  | .held => s

end Sys2Proof.Machine
end

