-- ==== Sys2Proof/Machine/CraneRequests.lean ====
section
/-! DEFINITION. What the owning blocks answer to the requests of chapters 1 to 3: scanner, pose and geometry table, zones. -/
namespace Sys2Proof.Machine

/-- A request acted on at once (R187). -/
def Answer.ok (s : State) (results : List Byte) : Answer := ⟨s, .ok, results, 0, .nothing⟩

/-- A long operation started (R187). -/
def Answer.accepted (s : State) (results : List Byte) : Answer := ⟨s, .accepted, results, 0, .nothing⟩

/-- A refusal: nothing changes in the block (R187). -/
def Answer.refuse (status : Status) (s : State) (results : List Byte) : Answer := ⟨s, status, results, 0, .nothing⟩

/-- The slot in a reply: IDLE 0 or RUNNING 1, and the kind when RUNNING (R140, log 15). -/
def slotBytes (slot : Option Op) : List Byte := boolByte slot.isSome :: optBytes (fun o => [OpKind.code o.kind]) slot

/-! ### Scanner (R15 to R19) -/

/-- AUTO 0, MANUAL 1. -/
def scanModeOf (b : Byte) : Option ScanMode := if b = 0 then some .auto else if b = 1 then some .manual else none

/-- The mode and the holding value. -/
def scanSettings (s : State) : List Byte := s.scanner.mode.code :: be 1 s.scanner.period

/-- Entering MANUAL (R7). -/
def enterManual (s : State) : State :=
  { s with scanner := { s.scanner with mode := .manual, timer := none }, tracker := { s.tracker with state := .held } }.setModeRow true

/-- Leaving MANUAL for AUTO (R7): a scan starts at once unless one is in progress. -/
def leaveManual (s : State) : State :=
  let c := { s.scanner with mode := .auto }
  { s with
    scanner := if c.running.isNone then c.startAuto s.time else c
    tracker := { s.tracker with state := .empty } }.setModeRow false

/-- The holding value written (R5, R15). -/
def State.setPeriod (period : Nat) (s : State) : State := { s with scanner := { s.scanner with period := period } }

/-- The period written, and the mode change (R7, R15). -/
def applySetScan (mode : ScanMode) (period : Nat) (s : State) : State :=
  match s.scanner.mode, mode with
  | .auto, .manual => enterManual (s.setPeriod period)
  | .manual, .auto => leaveManual (s.setPeriod period)
  | .auto, .auto => s.setPeriod period
  | .manual, .manual => s.setPeriod period

/-- The status of a SET_SCAN by its checks in order (R15); OK when all pass. -/
def setScanStatus (mode period : Byte) (s : State) : Status :=
  if s.op.slot.isSome then .busy
  else if (scanModeOf mode).isNone || period.toNat < 5 || 100 < period.toNat then .range
  else if !budgetHolds s.scanner.levels period.toNat then .range
  else if scanModeOf mode = some .manual && s.scanner.mode = .auto && s.tracker.state != .empty then .busy
  else .ok

/-- SET_SCAN (R15). -/
def answerSetScan (mode period : Byte) (s : State) : Answer :=
  match setScanStatus mode period s, scanModeOf mode with
  | .ok, some m => let t := applySetScan m period.toNat s; .ok t (scanSettings t)
  | status, _ => .refuse status s (scanSettings s)

/-- A channel is read signed: 3, 4, 7, 8, 9 (R195, R196 note 2). -/
def signedChannel (ch : Fin 12) : Bool := ch.val == 3 || ch.val == 4 || ch.val == 7 || ch.val == 8 || ch.val == 9

/-- A bound as a channel reads it. -/
def boundOf (ch : Fin 12) (v : BitVec 16) : Int := if signedChannel ch then v.toInt else v.toNat

/-- A number below n, or none. -/
def finOf (n : Nat) (k : Nat) : Option (Fin n) := if h : k < n then some ⟨k, h⟩ else none

/-- A channel's level and bounds. -/
def channelBytes (c : Channel) : List Byte := be 1 c.level.val ++ be 2 c.lower ++ be 2 c.upper

/-- The reply of a SET_CHANNEL; a channel that does not exist has no level and no bounds (log 27). -/
def channelReply (channel : Byte) (s : State) : List Byte :=
  match finOf 12 channel.toNat with
  | some ch => channelBytes s.scanner.channels[ch]
  | none => []

/-- Both bounds lie in the channel's full range and in order (R16). -/
def boundsOk (ch : Fin 12) (lower upper : Int) : Bool :=
  fullRangeLow ch ≤ lower && lower ≤ fullRangeHigh ch && fullRangeLow ch ≤ upper && upper ≤ fullRangeHigh ch && lower ≤ upper

/-- The channel that an accepted SET_CHANNEL writes, by checks 2 and 3 (R16). -/
def setChannelTarget (channel level : Byte) (lower upper : BitVec 16) (s : State) : Option (Fin 12 × Channel) :=
  match finOf 12 channel.toNat, finOf 8 level.toNat with
  | some ch, some lv =>
    if boundsOk ch (boundOf ch lower) (boundOf ch upper) && budgetHolds (s.scanner.levels.set ch lv) s.scanner.period then
      some (ch, ⟨lv, boundOf ch lower, boundOf ch upper⟩)
    else none
  | _, _ => none

/-- SET_CHANNEL (R16). -/
def answerSetChannel (channel level : Byte) (lower upper : BitVec 16) (s : State) : Answer :=
  if s.op.slot.isSome then .refuse .busy s (channelReply channel s)
  else match setChannelTarget channel level lower upper s with
    | none => .refuse .range s (channelReply channel s)
    | some (ch, c) =>
      .ok { s with scanner := { s.scanner with channels := s.scanner.channels.set ch c } } (channelBytes c)

/-- SCAN_ONCE (R17): the scan starts at acceptance when none is in progress. -/
def answerScanOnce (s : State) : Answer :=
  if s.op.slot.isSome then .refuse .busy s (slotBytes s.op.slot)
  else if s.scanner.mode = .auto then .refuse .state s (slotBytes s.op.slot)
  else
    .accepted { s with
      op := { s.op with slot := some .scanOnce }
      scanner := if s.scanner.running.isNone then s.scanner.startOnce s.time else s.scanner } (slotBytes (some .scanOnce))

/-- The latest scan in a reply: for each channel raw counts, scaled value, band state; the referenced flag and the time (R19). -/
def scanBytes (scan : Scan) : List Byte :=
  channelList.flatMap (fun ch => split16 scan.raw[ch] ++ be 2 scan.scaled[ch] ++ [scan.band[ch].code])
    ++ [boolByte scan.referenced] ++ timeBytes scan.time

/-- GET_SAMPLE (R19). -/
def answerGetSample (s : State) : Answer :=
  .ok s (scanSettings s ++ s.scanner.channels.toList.flatMap channelBytes ++ optBytes scanBytes s.scanner.latest)

/-! ### Pose and geometry table (R22 to R35) -/

/-- The window is OPEN or SUSPENDED: SET_CRANE and TABLE_BEGIN are refused (R22, R31). -/
def Window.inUse (w : Window) : Bool := w.state == .opened || w.state == .suspended

/-- The constants and the set (1) or unset (0) condition; zero while unset (R22). -/
def craneBytes (c : Option Crane) : List Byte :=
  let k := c.getD ⟨0, 0, 0, 0, 0⟩
  be 2 k.lb ++ be 2 k.ls ++ be 2 k.h ++ be 2 k.ap ++ be 2 k.ar ++ [boolByte c.isSome]

/-- The constants lie in their ranges, and Ar is less than Ap (R21, R22). -/
def craneOk (c : Crane) : Bool :=
  1000 ≤ c.lb && c.lb ≤ 8000 && 1000 ≤ c.ls && c.ls ≤ 8000 && c.h ≤ 4000 && 1 ≤ c.ap && c.ap ≤ 2000 && 1 ≤ c.ar && c.ar ≤ 2000
    && c.ar < c.ap

/-- SET_CRANE (R22). -/
def answerSetCrane (lb ls h ap ar : BitVec 16) (s : State) : Answer :=
  let c : Crane := ⟨lb.toNat, ls.toNat, h.toNat, ap.toNat, ar.toNat⟩
  if s.weigh.window.inUse then .refuse .busy s (craneBytes s.pose.crane)
  else if !craneOk c then .refuse .range s (craneBytes s.pose.crane)
  else .ok { s with pose := { s.pose with crane := some c } } (craneBytes (some c))

/-- The reasons of an invalid pose (R195). -/
def reasonsByte (p : Pose) : Byte := boolByte p.unset ||| (boolByte p.band <<< 1) ||| (boolByte p.unreferenced <<< 2)

/-- VALID 0, INVALID 1 (R23). -/
def validityCode (p : Pose) : Byte := boolByte (!p.valid)

/-- The cell, or the out-of-table indication (R29, log 13). -/
def cellBytes : CellRef → List Byte
  | .outOfTable => [0]
  | .cell row col => [1] ++ be 1 row.val ++ be 1 col.val

/-- A pose in a reply (R29). -/
def poseBytes (p : Pose) : List Byte :=
  be 2 p.theta ++ be 2 p.slew ++ optBytes (fun x => be 2 x.1.reach) p.position ++ optBytes (fun x => be 2 x.1.height) p.position
    ++ optBytes (fun r => be 2 (Rates.slew r)) p.rates ++ optBytes (fun r => be 2 (Rates.boom r)) p.rates
    ++ [validityCode p, reasonsByte p] ++ optBytes (fun x => cellBytes x.2) p.position ++ timeBytes p.time

/-- GET_POSE (R29). -/
def answerGetPose (s : State) : Answer :=
  .ok s (craneBytes s.pose.crane ++ optBytes poseBytes s.pose.latest ++ [s.table.state.code])

/-- ZERO or SPAN runs (R31, R78). -/
def calibrationRuns (slot : Option Op) : Bool :=
  match slot with
  | some (.zero _ _ _) => true
  | some (.span _) => true
  | some .scanOnce => false
  | none => false

/-- TABLE_BEGIN (R31); the TABLE source becomes active when the table leaves VALID (R36). -/
def answerTableBegin (s : State) : Answer :=
  if s.weigh.window.inUse || calibrationRuns s.op.slot then .refuse .busy s [s.table.state.code]
  else
    let t := { s with table := Geometry.discard .loading }
    .ok (if s.table.state = .valid then t.setTableRow true else t) [TableState.loading.code]

/-- The row number, and the number of rows written (R32). -/
def tableWriteReply (row : Byte) (g : Geometry) : List Byte := row :: be 1 g.rowCount

/-- TABLE_WRITE (R32). -/
def answerTableWrite (row : Byte) (cells : List (BitVec 16 × BitVec 16 × BitVec 16)) (s : State) : Answer :=
  if s.table.state ≠ .loading then .refuse .state s (tableWriteReply row s.table)
  else match finOf 16 row.toNat with
    | none => .refuse .range s (tableWriteReply row s.table)
    | some r =>
      if cells.any fun c => c.1 == 0 then .refuse .range s (tableWriteReply row s.table)
      else
        let g := { s.table with rows := s.table.rows.set r (some (cellsOf cells)) }
        .ok { s with table := g } (tableWriteReply row g)

/-- The outcome of a TABLE_END in LOADING (R33). -/
def tableOutcome (check : BitVec 16) (g : Geometry) : TableOutcome :=
  if g.rowCount < 16 then .incomplete else if check = g.crc then .valid else .check

/-- TABLE_INVALID (R33). -/
def tableInvalid (check : BitVec 16) (g : Geometry) (now : Time) : Detail :=
  let o := tableOutcome check g
  .tableInvalid o g.rowCount check (if o = .check then g.crc else 0) now

/-- TABLE_END (R33); the TABLE source becomes inactive when the table becomes VALID (R36). -/
def answerTableEnd (check : BitVec 16) (s : State) : Answer :=
  if s.table.state ≠ .loading then .refuse .state s []
  else
    let o := tableOutcome check s.table
    if o = .valid then .ok ({ s with table := { s.table with state := .valid } }.setTableRow false) [o.code]
    else .ok ({ s with table := Geometry.discard .empty }.raise (tableInvalid check s.table s.time)) [o.code]

/-- TABLE_READ (R35). -/
def answerTableRead (row : Byte) (s : State) : Answer :=
  if s.table.state ≠ .valid then .refuse .state s []
  else match finOf 16 row.toNat with
    | none => .refuse .range s []
    | some r => .ok s (row :: partBytes rowBytes s.table.rows[r])

/-- A link reset acts on the table (R37). -/
def Geometry.linkReset (g : Geometry) : Geometry := if g.state = .loading then .discard .empty else g

/-! ### Zones (R47 to R50) -/

/-- The kind that a SET_ZONE carries, with its function set for SLOW and HOLD; none where check 2 or check 6 fails (R47). -/
def zoneKindOf (kind fns : Byte) : Option ZoneKind :=
  if kind = 0 then some .weigh
  else if kind = 1 then some .bunk
  else if fns = 0 || 63 < fns.toNat then none
  else if kind = 2 then some (.slow (fns.setWidth 6))
  else if kind = 3 then some (.hold (fns.setWidth 6))
  else none

/-- Checks 3 to 5 (R47). -/
def zoneBoundsOk (z : Zone) : Bool :=
  z.sectorStart ≤ 3599 && z.sectorEnd ≤ 3599
    && -19999 ≤ z.reachMin && z.reachMin ≤ 19999 && -19999 ≤ z.reachMax && z.reachMax ≤ 19999
    && -19999 ≤ z.heightMin && z.heightMin ≤ 23999 && -19999 ≤ z.heightMax && z.heightMax ≤ 23999
    && z.reachMin ≤ z.reachMax && z.heightMin ≤ z.heightMax

/-- The contents that a SET_ZONE carries, none when a check but the first fails. Every check refuses with RANGE (R47). -/
def zoneOf (sectorStart sectorEnd reachMin reachMax heightMin heightMax : BitVec 16) (kind fns : Byte) : Option Zone :=
  (zoneKindOf kind fns).bind fun k =>
    let z : Zone :=
      ⟨sectorStart.toNat, sectorEnd.toNat, reachMin.toInt, reachMax.toInt, heightMin.toInt, heightMax.toInt, k⟩
    if zoneBoundsOk z then some z else none

/-- The contents of an entry in a reply (R38). -/
def zoneBytes (z : Zone) : List Byte :=
  be 2 z.sectorStart ++ be 2 z.sectorEnd ++ be 2 z.reachMin ++ be 2 z.reachMax ++ be 2 z.heightMin ++ be 2 z.heightMax
    ++ [z.kind.code] ++ optBytes (fun f : BitVec 6 => [f.setWidth 8]) z.kind.fns

/-- The condition, FREE 0 or IN USE 1 (R38), and the contents when IN USE. -/
def entryBytes (e : ZoneEntry) : List Byte := boolByte e.contents.isSome :: optBytes zoneBytes e.contents

/-- SET_ZONE (R47, R48). For an index outside 0 to 15 the reply is the index alone: neither a condition nor a presence byte stands for
the entry that is not there (log 13). -/
def answerSetZone (index : Byte) (sectorStart sectorEnd reachMin reachMax heightMin heightMax : BitVec 16) (kind fns : Byte)
    (s : State) : Answer :=
  match finOf 16 index.toNat with
  | none => .refuse .range s [index]
  | some i =>
    match zoneOf sectorStart sectorEnd reachMin reachMax heightMin heightMax kind fns with
    | none => .refuse .range s (index :: entryBytes s.zones.entries[i])
    | some z =>
      let e : ZoneEntry := { s.zones.entries[i] with contents := some z, edited := true }
      .ok { s with zones := { s.zones with entries := s.zones.entries.set i e } } (index :: entryBytes e)

/-- CLEAR_ZONE (R49). -/
def answerClearZone (index : Byte) (s : State) : Answer :=
  match finOf 16 index.toNat with
  | none => .refuse .range s []
  | some i =>
    let old := s.zones.entries[i]
    let e : ZoneEntry := if old.contents.isSome then { old with contents := none, edited := true } else old
    .ok { s with zones := { s.zones with entries := s.zones.entries.set i e } } [index, boolByte old.contents.isSome]

/-- The membership summary in a reply (R43, R50): NO 0, YES 1, and each zone level by the code of a level, FREE 0, SLOW 1, HOLD 2 (log
15; R43 itself names them HOLD, SLOW, FREE). -/
def summaryBytes (x : Summary) : List Byte :=
  [boolByte x.weigh, boolByte x.bunk] ++ x.levels.toList.map Level.code ++ be 1 x.inside

/-- GET_ZONE (R50). The validity of the pose is its one byte, without the reasons that R23 and R29 give with it: the model's choice (log
30). -/
def answerGetZone (index : Byte) (s : State) : Answer :=
  match finOf 16 index.toNat with
  | none => .refuse .range s []
  | some i =>
    let e := s.zones.entries[i]
    .ok s (index :: entryBytes e ++ [e.result.code, boolByte e.edited] ++ optBytes summaryBytes s.zones.summary
      ++ optBytes (fun p => validityCode p :: timeBytes p.time) s.pose.latest)

end Sys2Proof.Machine
end

