-- ==== Sys2Proof/Machine/LiftRequests.lean ====
section
/-! DEFINITION. What the owning blocks answer to the requests of chapters 4 and 5: lift tracker and weigh unit. -/
namespace Sys2Proof.Machine

/-! ### Lift tracker (R70, R72) -/

/-- A sort of a request: 1 to 12, as an index. -/
def sortOf (b : Byte) : Option (Fin 12) := if b.toNat = 0 then none else finOf 12 (b.toNat - 1)

/-- The reply of a SET_SORT: current sort, tracker state, applied, and the grip time when applied (R70). -/
def setSortReply (s : State) (applied : Option Time) : List Byte :=
  [sortByte s.tracker.sort, s.tracker.state.code, boolByte applied.isSome] ++ optBytes timeBytes applied

/-- SET_SORT (R70). -/
def answerSetSort (sort apply : Byte) (s : State) : Answer :=
  match sortOf sort with
  | none => .refuse .range s (setSortReply s none)
  | some k =>
    if 1 < apply.toNat then .refuse .range s (setSortReply s none)
    else if apply = 1 then
      let t := { s with tracker := ⟨s.tracker.state.mapLift fun l => { l with sort := k }, k⟩ }
      .ok t (setSortReply t (s.tracker.state.lift.map Lift.gripTime))
    else
      let t := { s with tracker := { s.tracker with sort := k } }
      .ok t (setSortReply t none)

/-- What an accepted MARK tells of the lift marked (R72). -/
def markedBytes (l : Lift) : List Byte :=
  timeBytes l.gripTime ++ [sortByte l.sort] ++ be 1 l.regrips ++ [boolByte l.marked]

/-- MARK (R72). -/
def answerMark (s : State) : Answer :=
  match s.tracker.state.lift with
  | none => .refuse .state s (s.tracker.state.code :: optBytes markedBytes none)
  | some l => .ok { s with tracker := s.tracker.markLift } (s.tracker.state.code :: optBytes markedBytes (some l))

/-! ### Weigh parameters (R78, R79) -/

/-- The nine values (R77). -/
def weighParamBytes (p : WeighParams) : List Byte :=
  be 1 p.budget ++ be 1 p.still ++ be 2 p.tolerance ++ be 2 p.motion ++ be 2 p.grip ++ be 2 p.release ++ be 2 p.regrip
    ++ be 2 p.trim ++ be 2 p.tare

/-- The values lie in their ranges (R77, R78). -/
def weighParamsOk (p : WeighParams) : Bool :=
  8 ≤ p.budget && p.budget ≤ 64 && 4 ≤ p.still && p.still ≤ 16 && p.still ≤ p.budget && 1 ≤ p.tolerance && p.tolerance ≤ 500
    && 1 ≤ p.motion && p.motion ≤ 2000 && 100 ≤ p.grip && p.grip ≤ 39999 && 100 ≤ p.release && p.release ≤ 39999
    && p.release < p.grip && p.regrip ≤ 3000 && 800 ≤ p.trim && p.trim ≤ 1250 && p.tare ≤ 2000

/-- SET_WEIGH (R78). -/
def answerSetWeigh (budget still : Byte) (tolerance motion grip release regrip trim tare : BitVec 16) (s : State) : Answer :=
  let p : WeighParams :=
    ⟨budget.toNat, still.toNat, tolerance.toNat, motion.toNat, grip.toNat, release.toNat, regrip.toNat, trim.toNat, tare.toNat⟩
  if calibrationRuns s.op.slot then .refuse .busy s (weighParamBytes s.weigh.params)
  else if !weighParamsOk p then .refuse .range s (weighParamBytes s.weigh.params)
  else .ok { s with weigh := { s.weigh with params := p } } (weighParamBytes p)

/-- Lift context 0, calibration context 1, no context 2 (R79, log 15). -/
def Context.code : Context → Byte
  | .lift _ => 0 | .calibration _ => 1 | .absent => 2

/-- The figures of the context held; a calibration context has no stillness count, tolerance or phase (R79). -/
def contextBytes (c : Context) : List Byte :=
  match c with
  | .absent => [0]
  | .lift x =>
    [(1 : Byte)] ++ be 1 x.budget ++ optBytes (fun n => be 1 (n : Nat)) (some x.still)
      ++ optBytes (fun n => be 2 (n : Nat)) (some x.tolerance) ++ be 2 x.motion ++ be 2 x.trim ++ be 2 x.tare
      ++ optBytes (fun f => [Phase.code f]) (some x.phase)
  | .calibration x => [(1 : Byte)] ++ be 1 x.budget ++ [0, 0] ++ be 2 x.motion ++ be 2 x.trim ++ be 2 x.tare ++ [0]

/-- GET_WEIGH: the items of R79 in its order. No byte says how many samples there are: LEN fixes it (R195). -/
def answerGetWeigh (s : State) : Answer :=
  let w := s.weigh
  .ok s (weighParamBytes w.params ++ [w.context.code] ++ contextBytes w.context ++ windowBytes w.window.state
    ++ [boolByte w.window.missed] ++ w.window.samples.flatMap (be 3) ++ [boolByte w.overload]
    ++ optBytes (fun x => be 3 (LatestWeight.weight x) ++ timeBytes x.time) w.latest)

/-! ### Requests on the window (R97, R98) -/

/-- The window can be flushed or discarded: a lift context, and OPEN, SUSPENDED or FROZEN (R97, R98). -/
def Weigh.flushable (w : Weigh) : Bool :=
  w.context.isLift && (w.window.state == .opened || w.window.state == .suspended || w.window.state == .frozen)

/-- Count, spread and weight of a window in a reply: those of its result when it is CLOSED under a lift context; else the count and
the spread of the samples held, and no weight (log 29). -/
def windowFigures (w : Weigh) : List Byte :=
  match w.window.state.status, w.context.isLift with
  | some c, true =>
    let r := windowResult w.context.still c w.window.samples
    be 1 r.count ++ be 2 r.spread ++ optBytes (fun x => be 3 (x : Nat)) r.weight
  | _, _ => be 1 w.window.samples.length ++ be 2 (spreadGiven w.window.samples) ++ [0]

/-- The reply of a WEIGH_FLUSH: the state when taken, the close status after it, count, spread, weight (R97). -/
def flushReply (before : WindowState) (w : Weigh) : List Byte :=
  before.code :: optBytes (fun c => [CloseStatus.code c]) w.window.state.status ++ windowFigures w

/-- WEIGH_FLUSH (R97). -/
def answerWeighFlush (s : State) : Answer :=
  if s.weigh.flushable then
    let w := { s.weigh with window := { s.weigh.window with state := .closed .flushed } }
    .ok { s with weigh := w } (flushReply s.weigh.window.state w)
  else .refuse .state s (flushReply s.weigh.window.state s.weigh)

/-- WEIGH_DISCARD (R98): the list emptied, an OPEN window SUSPENDED. -/
def answerWeighDiscard (s : State) : Answer :=
  let before := s.weigh.window.state
  if s.weigh.flushable then
    let after : WindowState := if before = .frozen then .frozen else .suspended
    .ok { s with weigh := { s.weigh with window := { s.weigh.window with state := after, samples := [] } } }
      ([before.code, after.code] ++ be 1 s.weigh.window.samples.length)
  else .refuse .state s [before.code, before.code, 0]

end Sys2Proof.Machine
end

