-- ==== Sys2Proof/Machine/TallyRequests.lean ====
section
/-! DEFINITION. What the owning blocks answer to the requests of chapters 6 and 7: tally and record queue. -/
namespace Sys2Proof.Machine

/-! ### Tally (R112 to R123) -/

/-- SET_PAYLOAD (R112). -/
def answerSetPayload (limit : BitVec 24) (s : State) : Answer :=
  if limit.toNat < 1 || maxBunk < limit.toNat then .refuse .range s (be 3 s.tally.limit ++ be 4 s.tally.total)
  else
    .ok { s with tally := { s.tally with limit := limit.toNat } } (be 3 (limit.toNat : Nat) ++ be 4 s.tally.total)

/-- The reply of an accepted TALLY_ADJUST (R114): `t` is the tally before it. ADMITTED 0, FOLDED 1 (log 15). -/
def adjustReply (lr : LiftRecord) (after : Tally) (admitted : Bool) : List Byte :=
  be 2 lr.loadNumber ++ be 2 lr.liftNumber ++ be 3 lr.applied ++ be 3 (lr.excess.getD 0) ++ be 3 after.entries[lr.sort].bunk
    ++ be 4 after.total ++ [boolByte (!admitted)]

/-- TALLY_ADJUST (R114 to R116). The reply of a refused one is the sort received and the load number: no presence byte stands for the
lift number it does not carry (log 13). -/
def answerTallyAdjust (sort : Byte) (amount : BitVec 24) (s : State) : Answer :=
  match sortOf sort with
  | none => .refuse .range s (sort :: be 2 s.tally.loadNumber)
  | some k =>
    if maxBunk < amount.toInt.natAbs then .refuse .range s (sort :: be 2 s.tally.loadNumber)
    else
      let lr := adjustRecord s.tally k amount.toInt s.time
      let t := s.tally.adjust k amount.toInt
      let q := s.records.takeLift lr s.time
      .ok ({ s with tally := t, records := q.1 }.raiseAll q.2.1) (adjustReply lr t q.2.2)

/-- The twelve bunk weights and the opening total (R117). -/
def tallySetReply (t : Tally) : List Byte := t.entries.toList.flatMap (fun e => be 3 e.bunk) ++ be 4 t.opening

/-- The bunk weights written, and the opening total as their sum (R117). -/
def Tally.setWeights (t : Tally) (weights : List (BitVec 24)) : Tally :=
  let t := { t with entries := Vector.ofFn fun i : Fin 12 => { t.entries[i] with bunk := (weights.getD i.val 0).toNat } }
  { t with opening := t.total }

/-- TALLY_SET (R117). -/
def answerTallySet (weights : List (BitVec 24)) (s : State) : Answer :=
  if 1 < s.tally.nextLift then .refuse .state s (tallySetReply s.tally)
  else if weights.any fun w => maxBunk < w.toNat then .refuse .range s (tallySetReply s.tally)
  else
    let t := s.tally.setWeights weights
    .ok { s with tally := t } (tallySetReply t)

/-- CARRY 0, CLEAR 1. -/
def closeModeOf (b : Byte) : Option CloseMode := if b = 0 then some .carry else if b = 1 then some .clear else none

/-- LOAD_CLOSE (R118). -/
def answerLoadClose (closeMode : Byte) (s : State) : Answer :=
  match closeModeOf closeMode with
  | none => .refuse .range s []
  | some m =>
    if 2 ≤ s.records.loads then .refuse .full s (be 2 s.tally.loadNumber ++ be 1 s.records.loads)
    else
      let lr := s.tally.loadRecord m s.time
      let q := s.records.takeLoad lr s.time
      let t := s.tally.newLoad m s.time
      .ok ({ s with tally := t, records := q.1 }.raiseAll q.2)
        (be 2 lr.loadNumber ++ [m.code] ++ be 4 lr.final ++ be 1 lr.entries.length ++ be 2 t.loadNumber ++ be 4 t.opening)

/-- A sort entry in a reply (R123). -/
def entryTallyBytes (e : SortEntry) : List Byte :=
  be 3 e.bunk ++ be 3 e.loaded ++ be 3 e.unloaded ++ be 3 e.adjusted ++ be 1 e.loadLifts ++ be 1 e.unloadLifts

/-- GET_TALLY (R123). -/
def answerGetTally (s : State) : Answer :=
  let t := s.tally
  .ok s (t.entries.toList.flatMap entryTallyBytes ++ be 4 t.total ++ be 2 t.loadNumber ++ be 4 t.opening ++ be 2 t.nextLift
    ++ be 2 t.shifts ++ be 2 t.returns ++ be 2 t.unweighed ++ timeBytes t.openTime ++ be 3 t.limit
    ++ [boolByte (t.limit < t.total), sortByte s.tracker.sort])

/-! ### Record queue (R135, R136) -/

/-- The room for records in a FETCH_RECORDS reply: 248 less the fixed part of 6 bytes (R199). -/
abbrev fetchRoom : Nat := 242

/-- The results of a FETCH_RECORDS reply (R135, R199): `q` is the queue with the records carried marked. -/
def fetchReply (q : RecordQueue) (carried : List Record) : List Byte :=
  be 1 carried.length ++ be 1 (q.lifts - (carried.filter Record.isLift).length)
    ++ be 1 (q.loads - (carried.filter fun r => !r.isLift).length) ++ [boolByte q.gap.nonEmpty] ++ carried.flatMap fetchedBytes

/-- FETCH_RECORDS (R135). -/
def answerFetchRecords (number : Byte) (s : State) : Answer :=
  if number.toNat < 1 || 4 < number.toNat then .refuse .range s []
  else if s.records.mode = .stream then .refuse .state s []
  else
    let carried := fetchTake number.toNat fetchRoom s.records.unmarked
    let q := { s.records with records := markFirst carried.length s.records.records }
    ⟨{ s with records := q }, .ok, fetchReply q carried, carried.length, .nothing⟩

/-- POLLED 0, STREAM 1. -/
def streamModeOf (b : Byte) : Option StreamMode := if b = 0 then some .polled else if b = 1 then some .stream else none

/-- Mode, threshold, lift records held, load records held (R136). -/
def streamReply (q : RecordQueue) : List Byte := q.mode.code :: be 1 q.threshold ++ be 1 q.lifts ++ be 1 q.loads

/-- SET_STREAM (R136). -/
def answerSetStream (mode threshold : Byte) (s : State) : Answer :=
  match streamModeOf mode with
  | none => .refuse .range s (streamReply s.records)
  | some m =>
    if threshold.toNat < 1 || 30 < threshold.toNat then .refuse .range s (streamReply s.records)
    else
      let q := { s.records with mode := m, threshold := threshold.toNat }
      .ok ({ s with records := q }.raiseAll (settingReady .setting q s.time)) (streamReply q)

end Sys2Proof.Machine
end

