-- ==== Sys2Proof/Machine/ControlRequests.lean ====
section
/-! DEFINITION. What the owning blocks answer to the requests of chapters 8 to 11: operation unit, permit unit, event unit, link port. -/
namespace Sys2Proof.Machine

/-! ### Operation unit (R142, R144, R148) -/

/-- ZERO (R140, R144). -/
def answerZero (s : State) : Answer :=
  if s.op.slot.isSome then .refuse .busy s (slotBytes s.op.slot)
  else if s.scanner.mode = .auto && s.tracker.state == .empty && s.table.state == .valid then
    .accepted { s with op := { s.op with slot := some (.zero 0 0 0) } } (slotBytes (some (.zero 0 0 0)))
  else .refuse .state s (slotBytes s.op.slot)

/-- The tracker is GRIPPED. -/
def TrackerState.isGripped : TrackerState → Bool
  | .gripped _ => true | .empty => false | .releaseHold _ _ _ => false | .calibration => false | .held => false

/-- SPAN's acceptance (R67, R100, R148). -/
def startSpan (mass : Nat) (s : State) : State :=
  { s with
    op := { s.op with slot := some (.span mass) }
    tracker := { s.tracker with state := .calibration }
    weigh := s.weigh.startSpan }

/-- SPAN (R140, R148). -/
def answerSpan (mass : BitVec 16) (s : State) : Answer :=
  if s.op.slot.isSome then .refuse .busy s (slotBytes s.op.slot ++ split16 mass)
  else if mass.toNat < 100 || 10000 < mass.toNat then .refuse .range s (slotBytes s.op.slot ++ split16 mass)
  else if s.tracker.state.isGripped && s.weigh.window.state == .unopened && s.table.state == .valid then
    .accepted (startSpan mass.toNat s) (slotBytes (some (.span mass.toNat)) ++ split16 mass)
  else .refuse .state s (slotBytes s.op.slot ++ split16 mass)

/-- The last result in a reply (R139, R193): kind, result, the reason or abort cause where there is one, time. -/
def lastResultBytes (r : LastResult) : List Byte :=
  [r.kind.code, r.result.code] ++ optBytes (fun x => [x]) r.result.groundCode ++ timeBytes r.time

/-- An abort whole: its state, then its OP_DONE (R141, R143). -/
def State.abortOp (cause : AbortCause) (s : State) : State := (abortState cause s).raiseAll (abortEvents cause s)

/-- OP_ABORT (R142). -/
def answerOpAbort (s : State) : Answer :=
  match s.op.slot with
  | none => .refuse .state s (optBytes lastResultBytes s.op.last)
  | some o => .ok (s.abortOp .request) [o.kind.code]

/-! ### Permit unit (R158 to R167) -/

/-- A row of the contribution table in a reply: active or not, then its six contributions (R158). -/
def rowReply (r : PerFn Level) : List Byte := boolByte (rowActive r) :: r.toList.map Level.code

/-- The set of INTERLOCK-mode lines whose debounced state is INACTIVE, bit n for line n (R158, R195). -/
def interlockSet (aux : Vector AuxLine 4) : Byte :=
  boolByte aux[0].interlocked ||| (boolByte aux[1].interlocked <<< 1) ||| (boolByte aux[2].interlocked <<< 2)
    ||| (boolByte aux[3].interlocked <<< 3)

/-- The number of SLOW and HOLD entries INSIDE at the last completion, and its time; none when no completion has occurred (R158). -/
def permitCount (s : State) : Option (Nat × Time) :=
  match s.zones.summary, s.scanner.latest with
  | some x, some scan => some (x.permitInside, scan.time)
  | _, _ => none

/-- GET_PERMITS (R158). -/
def answerGetPermits (s : State) : Answer :=
  .ok s (s.permit.outputs.toList.map Level.code ++ s.permit.rows.toList.flatMap rowReply
    ++ [s.permit.sup.stage.code, interlockSet s.permit.aux]
    ++ optBytes (fun x : Nat × Time => be 1 x.1 ++ timeBytes x.2) (permitCount s))

/-- OFF 0, STATE 1, INTERLOCK 2, MARK 3. -/
def auxModeOf (b : Byte) : Option AuxMode :=
  if b = 0 then some .off else if b = 1 then some .state else if b = 2 then some .interlock else if b = 3 then some .mark else none

/-- ACTIVE_HIGH 0 (true), ACTIVE_LOW 1 (false). -/
def polarityOf (b : Byte) : Option Bool := if b = 0 then some true else if b = 1 then some false else none

/-- The line with the mode and polarity carried; none when one of them names no member of its list (R162). -/
def AuxLine.configure (mode polarity : Byte) (a : AuxLine) : Option AuxLine :=
  match auxModeOf mode, polarityOf polarity with
  | some m, some p => some { a with mode := m, activeHigh := p }
  | _, _ => none

/-- The four lines of a SET_LINES (R162). -/
def configureLines (m0 p0 m1 p1 m2 p2 m3 p3 : Byte) (aux : Vector AuxLine 4) : Option (Vector AuxLine 4) :=
  match aux[0].configure m0 p0, aux[1].configure m1 p1, aux[2].configure m2 p2, aux[3].configure m3 p3 with
  | some a, some b, some c, some d => some #v[a, b, c, d]
  | _, _, _, _ => none

/-- Mode, polarity, debounced level and debounced state of each line (R162). -/
def linesReply (aux : Vector AuxLine 4) : List Byte :=
  aux.toList.flatMap fun a => [a.mode.code, polarityCode a.activeHigh, lineLevelCode a.level, lineStateCode a.active]

/-- The INTERLOCK row formed anew, and the evaluation, whose cause is LINES (R161, R162). -/
def State.refreshInterlock (s : State) : State := { s with permit := s.permit.formInterlock }.evaluate .lines

/-- SET_LINES (R162). -/
def answerSetLines (m0 p0 m1 p1 m2 p2 m3 p3 : Byte) (s : State) : Answer :=
  match configureLines m0 p0 m1 p1 m2 p2 m3 p3 s.permit.aux with
  | none => .refuse .range s (linesReply s.permit.aux)
  | some aux => .ok { s with permit := { s.permit with aux := aux } }.refreshInterlock (linesReply aux)

/-- GET_LINES (R163). -/
def answerGetLines (s : State) : Answer :=
  .ok s (s.permit.aux.toList.flatMap fun a =>
    [a.mode.code, polarityCode a.activeHigh, lineLevelCode a.level, lineStateCode a.active, lineLevelCode a.input]
      ++ optBytes timeBytes a.lastEdge)

/-- The interval and the stage (R167). -/
def supervisionReply (v : Supervision) : List Byte := be 2 v.interval ++ [v.stage.code]

/-- 0, or a multiple of 100 from 100 to 5,000 (R164). -/
def intervalOk (n : Nat) : Bool := n % 100 == 0 && n ≤ 5000

/-- Supervision after an accepted SET_SUPERVISION (R167). -/
def Supervision.set (interval : Nat) (now : Time) (v : Supervision) : Supervision :=
  if interval = 0 then { v with interval := 0, stage := .off, timer := none }
  else { v with interval := interval, stage := .normal }.restart now

/-- SET_SUPERVISION (R167). -/
def answerSetSupervision (interval : BitVec 16) (s : State) : Answer :=
  if s.permit.sup.stage = .stopped then .refuse .state s (supervisionReply s.permit.sup)
  else if !intervalOk interval.toNat then .refuse .range s (supervisionReply s.permit.sup)
  else
    let v := s.permit.sup.set interval.toNat s.time
    .ok (s.setSupervision v) (supervisionReply v)

/-- RESUME (R167). -/
def answerResume (s : State) : Answer :=
  if s.permit.sup.stage = .stopped then
    .ok (s.setSupervision ({ s.permit.sup with stage := .normal }.restart s.time)) [Stage.normal.code]
  else .refuse .state s [s.permit.sup.stage.code]

/-! ### Event unit (R176 to R178) -/

/-- ITEMIZED 0, SUMMARY 1. -/
def eventModeOf (b : Byte) : Option EventMode := if b = 0 then some .itemized else if b = 1 then some .summary else none

/-- SET_EVENTS (R176). -/
def answerSetEvents (mode : Byte) (mask : BitVec 16) (s : State) : Answer :=
  match eventModeOf mode with
  | none => .refuse .range s (s.events.mode.code :: split16 s.events.mask)
  | some m => .ok { s with events := s.events.setModeMask s.sending m mask } (m.code :: split16 mask)

/-- GET_EVENTS (R177): the reply formed, then every raised kind reported. -/
def answerGetEvents (s : State) : Answer :=
  let e := s.events
  .ok { s with events := e.reportRaised.settle s.sending }
    (e.mode.code :: split16 e.mask ++ split16 e.pending ++ split16 e.raised ++ be 1 e.queue.length)

/-- GET_DETAIL (R178). -/
def answerGetDetail (kind : Byte) (s : State) : Answer :=
  match Kind.all[kind.toNat]? with
  | none => .refuse .range s []
  | some k =>
    let e := s.events
    .ok s ([kind, boolByte (e.isPending k), boolByte (e.isEnabled k)] ++ be 1 (e.count k) ++ [boolByte (e.hasNotice k)]
      ++ optBytes Detail.bytes (e.detail k))

/-! ### Link port (R189, R190, R192, R193) -/

/-- SET_LINK (R189): KEEP is written at acceptance, the speed changes at the reply's last byte. -/
def answerSetLink (speed keep : Byte) (s : State) : Answer :=
  match finOf 4 speed.toNat with
  | none => .refuse .range s []
  | some v =>
    if 1 < keep.toNat then .refuse .range s []
    else ⟨{ s with link := { s.link with keep := keep == 1 } }, .ok, [speed, keep], 0, .speed v⟩

/-- RESET (R190): the link reset is taken at the reply's last byte. -/
def answerReset (s : State) : Answer := ⟨s, .ok, [], 0, .linkReset⟩

/-- PING (R192). R195 lists no width for the part code and the revision: 2 bytes and 1 byte are the model's reading (log 13). -/
def answerPing (s : State) : Answer := .ok s (be 2 Config.partCode ++ be 1 Config.revision ++ timeBytes s.time)

/-- The results of GET_STATUS (R193). -/
def statusBytes (s : State) : List Byte :=
  [s.link.cause.code] ++ timeBytes s.time ++ be 1 s.link.speed.val
    ++ [boolByte s.link.keep, s.scanner.mode.code, s.table.state.code, s.tracker.state.code] ++ windowBytes s.weigh.window.state
    ++ [s.permit.sup.stage.code] ++ slotBytes s.op.slot ++ optBytes lastResultBytes s.op.last ++ be 1 s.records.lifts
    ++ be 1 s.records.loads ++ [boolByte s.records.gap.nonEmpty] ++ be 1 s.events.queue.length ++ be 2 s.tally.loadNumber
    ++ [sortByte s.tracker.sort] ++ s.permit.outputs.toList.map Level.code

/-- GET_STATUS (R193). -/
def answerGetStatus (s : State) : Answer := .ok s (statusBytes s)

end Sys2Proof.Machine
end

