-- ==== Sys2Proof/Machine/Requests.lean ====
section
/-! DEFINITION. Taking a request (R186): the command that a request frame carries, the block that answers it, the reply slot and the
receive buffer. -/
namespace Sys2Proof.Machine

/-- The request that the code and the values of a frame spell; none where the code is not listed or the length is wrong (R196). -/
def commandOf (f : RequestFrame) : Option Instr :=
  match f.code.toNat with
  | 0x10 => match f.values with
    | [mode, period] => some (.setScan f.tag mode period)
    | _ => none
  | 0x11 => match f.values with
    | [channel, level, l1, l0, u1, u0] => some (.setChannel f.tag channel level (join16 l1 l0) (join16 u1 u0))
    | _ => none
  | 0x12 => if f.values.isEmpty then some (.scanOnce f.tag) else none
  | 0x13 => if f.values.isEmpty then some (.getSample f.tag) else none
  | 0x18 => match f.values with
    | [a1, a0, b1, b0, c1, c0, d1, d0, e1, e0] =>
      some (.setCrane f.tag (join16 a1 a0) (join16 b1 b0) (join16 c1 c0) (join16 d1 d0) (join16 e1 e0))
    | _ => none
  | 0x19 => if f.values.isEmpty then some (.getPose f.tag) else none
  | 0x20 => if f.values.isEmpty then some (.tableBegin f.tag) else none
  | 0x21 => match f.values with
    | row :: rest => if rest.length = 48 then some (.tableWrite f.tag row (joinCells rest)) else none
    | [] => none
  | 0x22 => match f.values with
    | [c1, c0] => some (.tableEnd f.tag (join16 c1 c0))
    | _ => none
  | 0x23 => match f.values with
    | [row] => some (.tableRead f.tag row)
    | _ => none
  | 0x28 => match f.values with
    | [index, a1, a0, b1, b0, c1, c0, d1, d0, e1, e0, g1, g0, kind, fns] =>
      some (.setZone f.tag index (join16 a1 a0) (join16 b1 b0) (join16 c1 c0) (join16 d1 d0) (join16 e1 e0) (join16 g1 g0) kind fns)
    | _ => none
  | 0x29 => match f.values with
    | [index] => some (.clearZone f.tag index)
    | _ => none
  | 0x2A => match f.values with
    | [index] => some (.getZone f.tag index)
    | _ => none
  | 0x30 => match f.values with
    | [sort, apply] => some (.setSort f.tag sort apply)
    | _ => none
  | 0x31 => if f.values.isEmpty then some (.mark f.tag) else none
  | 0x38 => match f.values with
    | [budget, still, a1, a0, b1, b0, c1, c0, d1, d0, e1, e0, g1, g0, h1, h0] =>
      some (.setWeigh f.tag budget still (join16 a1 a0) (join16 b1 b0) (join16 c1 c0) (join16 d1 d0) (join16 e1 e0) (join16 g1 g0)
        (join16 h1 h0))
    | _ => none
  | 0x39 => if f.values.isEmpty then some (.getWeigh f.tag) else none
  | 0x3A => if f.values.isEmpty then some (.weighFlush f.tag) else none
  | 0x3B => if f.values.isEmpty then some (.weighDiscard f.tag) else none
  | 0x40 => match f.values with
    | [b2, b1, b0] => some (.setPayload f.tag (join24 b2 b1 b0))
    | _ => none
  | 0x41 => match f.values with
    | [sort, b2, b1, b0] => some (.tallyAdjust f.tag sort (join24 b2 b1 b0))
    | _ => none
  | 0x42 => if f.values.length = 36 then some (.tallySet f.tag (joinWeights f.values)) else none
  | 0x43 => match f.values with
    | [closeMode] => some (.loadClose f.tag closeMode)
    | _ => none
  | 0x44 => if f.values.isEmpty then some (.getTally f.tag) else none
  | 0x48 => match f.values with
    | [number] => some (.fetchRecords f.tag number)
    | _ => none
  | 0x49 => match f.values with
    | [mode, threshold] => some (.setStream f.tag mode threshold)
    | _ => none
  | 0x50 => if f.values.isEmpty then some (.zero f.tag) else none
  | 0x51 => match f.values with
    | [m1, m0] => some (.span f.tag (join16 m1 m0))
    | _ => none
  | 0x52 => if f.values.isEmpty then some (.opAbort f.tag) else none
  | 0x58 => if f.values.isEmpty then some (.getPermits f.tag) else none
  | 0x59 => match f.values with
    | [m0, p0, m1, p1, m2, p2, m3, p3] => some (.setLines f.tag m0 p0 m1 p1 m2 p2 m3 p3)
    | _ => none
  | 0x5A => if f.values.isEmpty then some (.getLines f.tag) else none
  | 0x5B => match f.values with
    | [i1, i0] => some (.setSupervision f.tag (join16 i1 i0))
    | _ => none
  | 0x5C => if f.values.isEmpty then some (.resume f.tag) else none
  | 0x60 => match f.values with
    | [mode, m1, m0] => some (.setEvents f.tag mode (join16 m1 m0))
    | _ => none
  | 0x61 => if f.values.isEmpty then some (.getEvents f.tag) else none
  | 0x62 => match f.values with
    | [kind] => some (.getDetail f.tag kind)
    | _ => none
  | 0x70 => match f.values with
    | [speed, keep] => some (.setLink f.tag speed keep)
    | _ => none
  | 0x71 => if f.values.isEmpty then some (.reset f.tag) else none
  | 0x72 => if f.values.isEmpty then some (.ping f.tag) else none
  | 0x73 => if f.values.isEmpty then some (.getStatus f.tag) else none
  | _ => none

/-- The answer of the block that owns a request (R186 step 3). A command that is no request of R196 is answered UNKNOWN. -/
def answer (i : Instr) (s : State) : Answer :=
  match i with
  | .setScan _ mode period => answerSetScan mode period s
  | .setChannel _ channel level lower upper => answerSetChannel channel level lower upper s
  | .scanOnce _ => answerScanOnce s
  | .getSample _ => answerGetSample s
  | .setCrane _ lb ls h ap ar => answerSetCrane lb ls h ap ar s
  | .getPose _ => answerGetPose s
  | .tableBegin _ => answerTableBegin s
  | .tableWrite _ row cells => answerTableWrite row cells s
  | .tableEnd _ check => answerTableEnd check s
  | .tableRead _ row => answerTableRead row s
  | .setZone _ index a b c d e f kind fns => answerSetZone index a b c d e f kind fns s
  | .clearZone _ index => answerClearZone index s
  | .getZone _ index => answerGetZone index s
  | .setSort _ sort apply => answerSetSort sort apply s
  | .mark _ => answerMark s
  | .setWeigh _ budget still a b c d e f g => answerSetWeigh budget still a b c d e f g s
  | .getWeigh _ => answerGetWeigh s
  | .weighFlush _ => answerWeighFlush s
  | .weighDiscard _ => answerWeighDiscard s
  | .setPayload _ limit => answerSetPayload limit s
  | .tallyAdjust _ sort amount => answerTallyAdjust sort amount s
  | .tallySet _ weights => answerTallySet weights s
  | .loadClose _ closeMode => answerLoadClose closeMode s
  | .getTally _ => answerGetTally s
  | .fetchRecords _ number => answerFetchRecords number s
  | .setStream _ mode threshold => answerSetStream mode threshold s
  | .zero _ => answerZero s
  | .span _ mass => answerSpan mass s
  | .opAbort _ => answerOpAbort s
  | .getPermits _ => answerGetPermits s
  | .setLines _ m0 p0 m1 p1 m2 p2 m3 p3 => answerSetLines m0 p0 m1 p1 m2 p2 m3 p3 s
  | .getLines _ => answerGetLines s
  | .setSupervision _ interval => answerSetSupervision interval s
  | .resume _ => answerResume s
  | .setEvents _ mode mask => answerSetEvents mode mask s
  | .getEvents _ => answerGetEvents s
  | .getDetail _ kind => answerGetDetail kind s
  | .setLink _ speed keep => answerSetLink speed keep s
  | .reset _ => answerReset s
  | .ping _ => answerPing s
  | .getStatus _ => answerGetStatus s
  | .powerOn _ | .scanTimerExpiry | .scanCompletion _ | .regripTimerExpiry | .auxInputChange _ _ | .auxDebounceExpiry _
  | .supervisionTimerExpiry | .frameReceived _ | .frameTimeout _ | .lineBreakEnd _ | .transmitStart | .frameTransmitted
  | .unknownRequest _ _ _ | .lenOutOfRange _ => .refuse .unknown s []

/-- The decision on a request frame (R186): UNKNOWN for a code not listed, FORMAT for a wrong length, else the block's answer. -/
def answerFrame (f : RequestFrame) (s : State) : Answer :=
  match requestLength f.code.toNat with
  | none => .refuse .unknown s []
  | some n =>
    if f.values.length ≠ n then .refuse .format s []
    else match commandOf f with
      | some i => answer i s
      | none => .refuse .format s []

/-- The reply built from an answer (R186). -/
def replyOf (f : RequestFrame) (a : Answer) : Reply := ⟨f.tag, f.code, a.status, a.results, a.carried, a.after⟩

/-- A request is taken: its answer's state, with the reply in the slot (R186). -/
def takeRequest (f : RequestFrame) (s : State) : State :=
  let a := answerFrame f s
  { a.state with link := { a.state.link with slot := some (replyOf f a) } }

/-- The oldest request in the buffer is taken when the reply slot is empty (R186). -/
def takeNext (s : State) : State :=
  match s.link.slot, s.link.buffer with
  | none, f :: rest => takeRequest f { s with link := { s.link with buffer := rest } }
  | none, [] => s
  | some _, _ => s

/-- A request frame joins the receive buffer, or is discarded with LINK_FAULT OVERFLOW (R185). -/
def join (f : RequestFrame) (s : State) : State :=
  if s.link.buffer.length < 4 then { s with link := { s.link with buffer := s.link.buffer ++ [f] } }
  else s.raise (.linkFault .overflow s.time)

/-- A request frame is offered to the receive buffer (R185), and the oldest request is taken if the slot is empty (R186). A request
that is due to be taken is taken first. -/
def offer (f : RequestFrame) (s : State) : State := takeNext (join f (takeNext s))

end Sys2Proof.Machine
end

