-- ==== Sys2Proof/Machine/Link.lean ====
section
/-! DEFINITION. The link port (chapter 11): receiver, link reset, transmit line. -/
namespace Sys2Proof.Machine

/-! ### The receiver (R182 to R184) -/

/-- The CHECK of a frame whose bytes after SYNC are LEN, the LEN bytes, and two CHECK bytes. -/
def checkMatches (len : Nat) (afterSync : List Byte) : Bool :=
  split16 (crc16 (afterSync.take (len + 1))) == (afterSync.drop (len + 1)).take 2

/-- The request frame of a good frame's bytes after SYNC: KIND 0x51 and LEN of 3 or more (R184). -/
def requestIn (len : Nat) (afterSync : List Byte) : Option RequestFrame :=
  match (afterSync.drop 1).take len with
  | kind :: tag :: code :: values => if kind = kindRequest then some ⟨tag, code, values⟩ else none
  | _ => none

/-- A good frame: supervision first, then the buffer, or LINK_FAULT KIND (R184). -/
def acceptFrame (len : Nat) (afterSync : List Byte) (s : State) : State :=
  let s := s.goodFrame
  match requestIn len afterSync with
  | some f => offer f s
  | none => s.raise (.linkFault .kind s.time)

/-- What the receiver does with the bytes it has, from the first on, hunting at the start (R182): the state, and the bytes of the
frame still being collected, if one is. `fuel` is the number of bytes. -/
def hunt : Nat → List Byte → State → State × Option (List Byte)
  | 0, _, s => (s, none)
  | _ + 1, [], s => (s, none)
  | fuel + 1, b :: rest, s =>
    if b ≠ syncByte then hunt fuel rest s
    else
      match rest with
      | [] => (s, some [])
      | lenByte :: _ =>
        let len := lenByte.toNat
        if len < 2 || 250 < len then hunt fuel rest (s.raise (.linkFault .check s.time))
        else if rest.length < len + 3 then (s, some rest)
        else if checkMatches len rest then hunt fuel (rest.drop (len + 3)) (acceptFrame len rest s)
        else hunt fuel rest (s.raise (.linkFault .check s.time))

/-- The bytes that the receiver still holds, from the SYNC of the frame being received. -/
def heldBytes (rx : Option PartialFrame) : List Byte :=
  match rx with
  | none => []
  | some p => syncByte :: p.bytes

/-- The state with the receiver hunting and no byte held. -/
def State.hunting (s : State) : State := { s with link := { s.link with rx := none } }

/-- Bytes arrive now (R182): the hunt runs over those held and those that arrive, and holds what belongs to an unfinished frame. -/
def receive (bytes : List Byte) (s : State) : State :=
  if bytes.isEmpty then s
  else
    let all := heldBytes s.link.rx ++ bytes
    let r := hunt all.length all s.hunting
    { r.1 with link := { r.1.link with rx := r.2.map fun b => ⟨b, s.time⟩ } }

/-- The frame being received is abandoned (R183). -/
def abandon (s : State) : State :=
  match s.link.rx with
  | none => s
  | some _ => s.hunting.raise (.linkFault .timeout s.time)

/-- The pause of 20 ms ends now (R183). -/
def LinkPort.pauseDue (now : Time) (l : LinkPort) : Bool :=
  match l.rx with
  | none => false
  | some p => addMs p.lastByte 20 == now

/-- FRAME_TIMEOUT (R183): the end of the 20 ms after the bytes held. With bytes, these arrive now, and the 20 ms have yet to pass
(log 5). -/
def frameTimeout (bytes : List Byte) (s : State) : State :=
  if bytes.isEmpty then (if s.link.pauseDue s.time then abandon s else s) else receive bytes s

/-- LEN_OUT_OF_RANGE (R182): the byte taken as LEN arrives; a SYNC before it, where the receiver still hunts. -/
def lenOutOfRange (len : Byte) (s : State) : State :=
  match s.link.rx with
  | none => receive [syncByte, len] s
  | some p => if p.bytes.isEmpty then receive [len] s else s

/-! ### Link reset (R190, R191) -/

/-- The link port at a link reset (R191, R194). -/
def LinkPort.linkReset (cause : StartCause) (l : LinkPort) : LinkPort :=
  { l with rx := none, buffer := [], slot := none, tx := none, speed := if l.keep then l.speed else 1, cause := cause }

/-- The blocks at a link reset but for the occurrences that come after R179: the link port, the event unit with RESTARTED, the
operation aborted, the geometry table, the record queue (R191). -/
def linkResetBlocks (cause : StartCause) (s : State) : State :=
  let keep := s.link.keep
  let t := abortState .linkReset s
  { t with
    link := s.link.linkReset cause
    events := s.events.linkReset cause keep s.time
    table := s.table.linkReset
    records := s.records.linkReset keep }

/-- A link reset: the blocks, supervision (R168), then OP_DONE and RECORDS_READY (log 19), in a free order (R143, R138, log 8). The line
is idle after it (R194), and with KEEP in STREAM a notice it queues goes before the record on offer (log 31). -/
def linkReset (cause : StartCause) (s : State) : State :=
  let t := linkResetBlocks cause s
  let r := settingReady .reset t.records s.time
  ({ t.supervisionLinkReset with free := s.free + 1 }).raiseAll (merged s.free [abortEvents .linkReset s, r])

/-- LINE_BREAK_END (R190): a space of 100 ms or more causes a link reset. -/
def lineBreakEnd (heldMs : Nat) (s : State) : State := if 100 ≤ heldMs then linkReset .break_ s else s

/-! ### The transmit line (R188) -/

/-- The bytes of a reply frame (R181). -/
def Reply.frame (r : Reply) : List Byte := frameBytes kindReply r.tag r.body

/-- A notice or a record is offered to the line. -/
def otherOffered (s : State) : Bool := !s.events.queue.isEmpty || s.records.offered.isSome

/-- The head notice begins (R174, R175): its body is formed, and an EVENT notice's kind is reported. -/
def beginNotice (n : Notice) (s : State) : State :=
  let t := { s with link := { s.link with tx := some ⟨.notice, frameBytes kindNotice 0 (noticeBody s.events n)⟩ } }
  match n with
  | .event k => { t with events := (s.events.report k).settle true }
  | .attention => t

/-- A record frame begins, and its record is marked (R133). -/
def beginRecord (r : Record) (s : State) : State :=
  { s with
    link := { s.link with tx := some ⟨.record, frameBytes kindRecord 0 r.bytes⟩ }
    records := { s.records with records := markFirst 1 s.records.records } }

/-- The arbiter takes the next frame on a free line (R188). -/
def arbitrate (s : State) : State :=
  match s.link.slot with
  | some r => { s with link := { s.link with tx := some ⟨.reply, r.frame⟩ } }
  | none =>
    match s.events.queue, s.records.offered with
    | n :: _, _ => beginNotice n s
    | [], some r => beginRecord r s
    | [], none => s

/-- TRANSMIT_START (R188): on a free line the arbiter chooses. No request waits for an empty slot (R186). -/
def transmitStart (s : State) : State := if s.link.tx.isSome then s else arbitrate (takeNext s)

/-- The next request is taken at the end of a frame (R186). Where a notice or a record is offered, the arbiter's choice may come
first, and that frame begins before the request is taken, in the same step: a free choice (R188, log 8). -/
def takeAtFrameEnd (s : State) : State :=
  if s.link.slot.isNone && !s.link.buffer.isEmpty && otherOffered s then
    let t := { s with free := s.free + 1 }
    takeNext (if freeBool s.free 0 then t else arbitrate t)
  else takeNext s

/-- The speed change at the last byte of a SET_LINK reply (R189). -/
def changeSpeed (speed : Fin 4) (s : State) : State :=
  if s.link.speed = speed then s else { s with link := { s.link with speed := speed, rx := none } }

/-- The last byte of a reply (R132, R186, R189, R190). -/
def replySent (r : Reply) (s : State) : State :=
  let t := { s with link := { s.link with slot := none, tx := none }, records := s.records.remove r.carried }
  match r.after with
  | .nothing => t
  | .speed v => changeSpeed v t
  | .linkReset => linkReset .request t

/-- The last byte of a notice (R172 to R175). A notice that is queued at this moment goes before a record that STREAM offers: of the two
orders of R188 the model's choice (log 31). -/
def noticeSent (s : State) : State :=
  { s with
    link := { s.link with tx := none }
    events := { s.events with queue := s.events.queue.drop 1 }.settle false }

/-- The last byte of a record frame (R132, R133). -/
def recordSent (s : State) : State := { s with link := { s.link with tx := none }, records := s.records.remove 1 }

/-- The owner of the frame acts at its last byte (R188). -/
def frameSent (f : TxFrame) (s : State) : State :=
  match f.owner, s.link.slot with
  | .reply, some r => replySent r s
  | .reply, none => { s with link := { s.link with tx := none } }
  | .notice, _ => noticeSent s
  | .record, _ => recordSent s

/-- FRAME_TRANSMITTED (R188). -/
def frameTransmitted (s : State) : State :=
  match s.link.tx with
  | none => s
  | some f => takeAtFrameEnd (frameSent f s)

end Sys2Proof.Machine
end

