-- ==== Sys2Proof/Machine/Clock.lean ====
section
/-! DEFINITION. Supply, the aux inputs, the supervision timer, and what falls due as the time counter counts (R1). -/
namespace Sys2Proof.Machine

/-! ### Power-on (R180, R194) -/

/-- POWER_ON: every value of power-on, with the levels that the aux inputs have then (R159, log 11). The waiting commands and the
model's free counter are not the part's (log 20). -/
def powerOn (auxLevels : BitVec 4) (s : State) : State :=
  { State.reset with
    permit := { State.reset.permit with
      aux := Vector.ofFn fun i : Fin 4 => { State.reset.permit.aux[i] with input := auxLevels.getLsbD i.val } }
    free := s.free
    pending := s.pending }

/-! ### Aux lines (R160, R161) -/

/-- One aux line replaced. -/
def State.setAux (line : Fin 4) (a : AuxLine) (s : State) : State :=
  { s with permit := { s.permit with aux := s.permit.aux.set line a } }

/-- AUX_INPUT_CHANGE (R160): the input takes the level and the 20 ms start afresh; the same level again is no change (log 22). -/
def auxInputChange (line : Fin 4) (high : Bool) (s : State) : State :=
  let a := s.permit.aux[line]
  if a.input = high then s else s.setAux line { a with input := high, since := s.time }

/-- The line after its edge (R160). -/
def AuxLine.edge (now : Time) (a : AuxLine) : AuxLine := { a with level := a.input, lastEdge := some now }

/-- A line in mode INTERLOCK takes its edge when its debounce ends now; any other line stays. -/
def AuxLine.interlockEdge (now : Time) (a : AuxLine) : AuxLine :=
  if a.mode = .interlock && a.debounceDue now then a.edge now else a

/-- The edges of INTERLOCK-mode lines that fall at this moment give one update: all the lines, then the row and the evaluation
(R161). -/
def interlockEdges (s : State) : State :=
  { s with permit := { s.permit with aux := Vector.ofFn fun i : Fin 4 => s.permit.aux[i].interlockEdge s.time } }.refreshInterlock

/-- What an edge does by the line's mode (R161). -/
def edgeEffect (line : Fin 4) (a : AuxLine) (s : State) : State :=
  match a.mode with
  | .off => s.setAux line a
  | .state => (s.setAux line a).raise (.lineState line a.level a.active s.time)
  | .interlock => interlockEdges s
  | .mark => { s.setAux line a with tracker := if a.active then s.tracker.markLift else s.tracker }

/-- AUX_DEBOUNCE_EXPIRY (R160). -/
def auxDebounceExpiry (line : Fin 4) (s : State) : State :=
  let a := s.permit.aux[line]
  if a.debounceDue s.time then edgeEffect line (a.edge s.time) s else s

/-! ### The supervision timer (R165) -/

/-- The supervision timer expires now. -/
def Supervision.timerDue (now : Time) (v : Supervision) : Bool :=
  v.timer == some now && (v.stage == .normal || v.stage == .warned)

/-- The expiry in NORMAL (R165). -/
def superviseWarn (s : State) : State :=
  let v := s.permit.sup
  (s.raise (.supervisionWarn v.interval v.lastGood s.time)).setSupervision ({ v with stage := .warned }.restart s.time)

/-- The expiry in WARNED (R165): SUPERVISION_STOP, then the abort with its OP_DONE, then the row and the evaluation (log 23). -/
def superviseStop (s : State) : State :=
  let v := s.permit.sup
  let kind := s.op.slot.map Op.kind
  ((s.raise (.supervisionStop v.interval v.lastGood kind s.time)).abortOp .supervision).setSupervision
    { v with stage := .stopped, timer := none }

/-- SUPERVISION_TIMER_EXPIRY (R165). -/
def supervisionTimerExpiry (s : State) : State :=
  if s.permit.sup.timerDue s.time then
    match s.permit.sup.stage with
    | .normal => superviseWarn s
    | .warned => superviseStop s
    | .off => s
    | .stopped => s
  else s

/-! ### What falls due (log 1, log 2) -/

/-- A command, when its condition holds. -/
def dueWhen (b : Bool) (i : Instr) : List Instr := if b then [i] else []

/-- The transmit line can begin a frame: it is free, and something is offered or a request waits for the empty slot (R188). -/
def startDue (s : State) : Bool :=
  s.link.tx.isNone && (s.link.slot.isSome || otherOffered s || !s.link.buffer.isEmpty)

/-- The raw counts of a scan whose sensors nobody speaks for: free values (log 3). -/
def freeCounts (counter : Nat) : Vector (BitVec 16) 12 := Vector.ofFn fun c => BitVec.ofNat 16 (Config.rawCounts counter c.val)

/-- The commands that fall due at this value of the time counter, one list each. -/
def due (s : State) : List (List Instr) :=
  [dueWhen (s.scanner.completionDue s.time) (.scanCompletion (freeCounts s.free)),
   dueWhen (s.scanner.timerDue s.time) .scanTimerExpiry,
   dueWhen (s.tracker.timerDue s.time) .regripTimerExpiry,
   dueWhen (s.permit.aux[0].debounceDue s.time) (.auxDebounceExpiry 0),
   dueWhen (s.permit.aux[1].debounceDue s.time) (.auxDebounceExpiry 1),
   dueWhen (s.permit.aux[2].debounceDue s.time) (.auxDebounceExpiry 2),
   dueWhen (s.permit.aux[3].debounceDue s.time) (.auxDebounceExpiry 3),
   dueWhen (s.permit.sup.timerDue s.time) .supervisionTimerExpiry,
   dueWhen (s.link.pauseDue s.time) (.frameTimeout []),
   dueWhen (startDue s) .transmitStart]

/-- The step when no command waits: the commands that fall due are put in the queue, in a free order (R62, R166, log 8); when none
is due the time counter counts one millisecond and wraps (R1). -/
def idle (s : State) : State :=
  if (due s).flatten.isEmpty then { s with time := s.time + 1 }
  else { s with pending := merged s.free (due s), free := s.free + 1 }

end Sys2Proof.Machine
end

