-- ==== Sys2Proof/Machine/Commands.lean ====
section
/-! DEFINITION. The meaning of each command. A request command stands for the arrival of its request frame at the receive buffer: it is
offered to the buffer, and taken when the reply slot is empty (R185, R186, log 4). -/
namespace Sys2Proof.Machine

/-- A command's answer: every command of the part leads to a next state. -/
abbrev Result := Host.Outcome State Fault Refusal

/-- POWER_ON (R180). -/
def execPowerOn (auxLevels : BitVec 4) (s : State) : Result := .next (powerOn auxLevels s)

/-- SCAN_TIMER_EXPIRY (R5). -/
def execScanTimerExpiry (s : State) : Result := .next (scanTimerExpiry s)

/-- SCAN_COMPLETION (R2). -/
def execScanCompletion (raw : Vector (BitVec 16) 12) (s : State) : Result := .next (scanCompletion raw s)

/-- REGRIP_TIMER_EXPIRY (R61). -/
def execRegripTimerExpiry (s : State) : Result := .next (regripTimerExpiry s)

/-- AUX_INPUT_CHANGE (R160). -/
def execAuxInputChange (line : Fin 4) (high : Bool) (s : State) : Result := .next (auxInputChange line high s)

/-- AUX_DEBOUNCE_EXPIRY (R160, R161). -/
def execAuxDebounceExpiry (line : Fin 4) (s : State) : Result := .next (auxDebounceExpiry line s)

/-- SUPERVISION_TIMER_EXPIRY (R165). -/
def execSupervisionTimerExpiry (s : State) : Result := .next (supervisionTimerExpiry s)

/-- FRAME_RECEIVED (R182, R184). -/
def execFrameReceived (bytes : List Byte) (s : State) : Result := .next (receive bytes s)

/-- FRAME_TIMEOUT (R183). -/
def execFrameTimeout (bytes : List Byte) (s : State) : Result := .next (frameTimeout bytes s)

/-- LINE_BREAK_END (R190). -/
def execLineBreakEnd (heldMs : BitVec 32) (s : State) : Result := .next (lineBreakEnd heldMs.toNat s)

/-- TRANSMIT_START (R188). -/
def execTransmitStart (s : State) : Result := .next (transmitStart s)

/-- FRAME_TRANSMITTED (R188). -/
def execFrameTransmitted (s : State) : Result := .next (frameTransmitted s)

/-- UNKNOWN_REQUEST (R186). -/
def execUnknownRequest (tag code : Byte) (values : List Byte) (s : State) : Result := .next (offer ⟨tag, code, values⟩ s)

/-- SET_SCAN (R15). -/
def execSetScan (tag mode period : Byte) (s : State) : Result := .next (offer (frameSetScan tag mode period) s)

/-- SET_CHANNEL (R16). -/
def execSetChannel (tag channel level : Byte) (lower upper : BitVec 16) (s : State) : Result :=
  .next (offer (frameSetChannel tag channel level lower upper) s)

/-- SCAN_ONCE (R17). -/
def execScanOnce (tag : Byte) (s : State) : Result := .next (offer ⟨tag, 0x12, []⟩ s)

/-- GET_SAMPLE (R19). -/
def execGetSample (tag : Byte) (s : State) : Result := .next (offer ⟨tag, 0x13, []⟩ s)

/-- SET_CRANE (R22). -/
def execSetCrane (tag : Byte) (lb ls h ap ar : BitVec 16) (s : State) : Result :=
  .next (offer (frameSetCrane tag lb ls h ap ar) s)

/-- GET_POSE (R29). -/
def execGetPose (tag : Byte) (s : State) : Result := .next (offer ⟨tag, 0x19, []⟩ s)

/-- TABLE_BEGIN (R31). -/
def execTableBegin (tag : Byte) (s : State) : Result := .next (offer ⟨tag, 0x20, []⟩ s)

/-- TABLE_WRITE (R32). -/
def execTableWrite (tag row : Byte) (cells : List (BitVec 16 × BitVec 16 × BitVec 16)) (s : State) : Result :=
  .next (offer (frameTableWrite tag row cells) s)

/-- TABLE_END (R33). -/
def execTableEnd (tag : Byte) (check : BitVec 16) (s : State) : Result := .next (offer ⟨tag, 0x22, split16 check⟩ s)

/-- TABLE_READ (R35). -/
def execTableRead (tag row : Byte) (s : State) : Result := .next (offer ⟨tag, 0x23, [row]⟩ s)

/-- SET_ZONE (R47, R48). -/
def execSetZone (tag index : Byte) (sectorStart sectorEnd reachMin reachMax heightMin heightMax : BitVec 16)
    (kind fns : Byte) (s : State) : Result :=
  .next (offer (frameSetZone tag index sectorStart sectorEnd reachMin reachMax heightMin heightMax kind fns) s)

/-- CLEAR_ZONE (R49). -/
def execClearZone (tag index : Byte) (s : State) : Result := .next (offer ⟨tag, 0x29, [index]⟩ s)

/-- GET_ZONE (R50). -/
def execGetZone (tag index : Byte) (s : State) : Result := .next (offer ⟨tag, 0x2A, [index]⟩ s)

/-- SET_SORT (R70). -/
def execSetSort (tag sort apply : Byte) (s : State) : Result := .next (offer ⟨tag, 0x30, [sort, apply]⟩ s)

/-- MARK (R72). -/
def execMark (tag : Byte) (s : State) : Result := .next (offer ⟨tag, 0x31, []⟩ s)

/-- SET_WEIGH (R78). -/
def execSetWeigh (tag budget still : Byte) (tolerance motion grip release regrip trim tare : BitVec 16) (s : State) : Result :=
  .next (offer (frameSetWeigh tag budget still tolerance motion grip release regrip trim tare) s)

/-- GET_WEIGH (R79). -/
def execGetWeigh (tag : Byte) (s : State) : Result := .next (offer ⟨tag, 0x39, []⟩ s)

/-- WEIGH_FLUSH (R97). -/
def execWeighFlush (tag : Byte) (s : State) : Result := .next (offer ⟨tag, 0x3A, []⟩ s)

/-- WEIGH_DISCARD (R98). -/
def execWeighDiscard (tag : Byte) (s : State) : Result := .next (offer ⟨tag, 0x3B, []⟩ s)

/-- SET_PAYLOAD (R112). -/
def execSetPayload (tag : Byte) (limit : BitVec 24) (s : State) : Result := .next (offer ⟨tag, 0x40, split24 limit⟩ s)

/-- TALLY_ADJUST (R114, R115). -/
def execTallyAdjust (tag sort : Byte) (amount : BitVec 24) (s : State) : Result :=
  .next (offer ⟨tag, 0x41, sort :: split24 amount⟩ s)

/-- TALLY_SET (R117). -/
def execTallySet (tag : Byte) (weights : List (BitVec 24)) (s : State) : Result :=
  .next (offer ⟨tag, 0x42, splitWeights weights⟩ s)

/-- LOAD_CLOSE (R118). -/
def execLoadClose (tag closeMode : Byte) (s : State) : Result := .next (offer ⟨tag, 0x43, [closeMode]⟩ s)

/-- GET_TALLY (R123). -/
def execGetTally (tag : Byte) (s : State) : Result := .next (offer ⟨tag, 0x44, []⟩ s)

/-- FETCH_RECORDS (R135). -/
def execFetchRecords (tag number : Byte) (s : State) : Result := .next (offer ⟨tag, 0x48, [number]⟩ s)

/-- SET_STREAM (R136). -/
def execSetStream (tag mode threshold : Byte) (s : State) : Result := .next (offer ⟨tag, 0x49, [mode, threshold]⟩ s)

/-- ZERO (R144). -/
def execZero (tag : Byte) (s : State) : Result := .next (offer ⟨tag, 0x50, []⟩ s)

/-- SPAN (R148). -/
def execSpan (tag : Byte) (mass : BitVec 16) (s : State) : Result := .next (offer ⟨tag, 0x51, split16 mass⟩ s)

/-- OP_ABORT (R142). -/
def execOpAbort (tag : Byte) (s : State) : Result := .next (offer ⟨tag, 0x52, []⟩ s)

/-- GET_PERMITS (R158). -/
def execGetPermits (tag : Byte) (s : State) : Result := .next (offer ⟨tag, 0x58, []⟩ s)

/-- SET_LINES (R162). -/
def execSetLines (tag m0 p0 m1 p1 m2 p2 m3 p3 : Byte) (s : State) : Result :=
  .next (offer ⟨tag, 0x59, [m0, p0, m1, p1, m2, p2, m3, p3]⟩ s)

/-- GET_LINES (R163). -/
def execGetLines (tag : Byte) (s : State) : Result := .next (offer ⟨tag, 0x5A, []⟩ s)

/-- SET_SUPERVISION (R167). -/
def execSetSupervision (tag : Byte) (interval : BitVec 16) (s : State) : Result := .next (offer ⟨tag, 0x5B, split16 interval⟩ s)

/-- RESUME (R167). -/
def execResume (tag : Byte) (s : State) : Result := .next (offer ⟨tag, 0x5C, []⟩ s)

/-- SET_EVENTS (R176). -/
def execSetEvents (tag mode : Byte) (mask : BitVec 16) (s : State) : Result := .next (offer ⟨tag, 0x60, mode :: split16 mask⟩ s)

/-- GET_EVENTS (R177). -/
def execGetEvents (tag : Byte) (s : State) : Result := .next (offer ⟨tag, 0x61, []⟩ s)

/-- GET_DETAIL (R178). -/
def execGetDetail (tag kind : Byte) (s : State) : Result := .next (offer ⟨tag, 0x62, [kind]⟩ s)

/-- SET_LINK (R189). -/
def execSetLink (tag speed keep : Byte) (s : State) : Result := .next (offer ⟨tag, 0x70, [speed, keep]⟩ s)

/-- RESET (R190). -/
def execReset (tag : Byte) (s : State) : Result := .next (offer ⟨tag, 0x71, []⟩ s)

/-- PING (R192). -/
def execPing (tag : Byte) (s : State) : Result := .next (offer ⟨tag, 0x72, []⟩ s)

/-- GET_STATUS (R193). -/
def execGetStatus (tag : Byte) (s : State) : Result := .next (offer ⟨tag, 0x73, []⟩ s)

/-- LEN_OUT_OF_RANGE (R182). -/
def execLenOutOfRange (len : Byte) (s : State) : Result := .next (lenOutOfRange len s)

end Sys2Proof.Machine
end

