-- ==== Sys2Proof/Machine/Dispatch.lean ====
section
/-! DEFINITION. One arm for each command. -/
namespace Sys2Proof.Machine

/-- The effect of a command on everything but the queue. -/
def exec (i : Instr) (s : State) : Host.Outcome State Fault Refusal :=
  match i with
  | .powerOn auxLevels => Sys2Proof.Machine.execPowerOn auxLevels s
  | .scanTimerExpiry => Sys2Proof.Machine.execScanTimerExpiry s
  | .scanCompletion raw => Sys2Proof.Machine.execScanCompletion raw s
  | .regripTimerExpiry => Sys2Proof.Machine.execRegripTimerExpiry s
  | .auxInputChange line high => Sys2Proof.Machine.execAuxInputChange line high s
  | .auxDebounceExpiry line => Sys2Proof.Machine.execAuxDebounceExpiry line s
  | .supervisionTimerExpiry => Sys2Proof.Machine.execSupervisionTimerExpiry s
  | .frameReceived bytes => Sys2Proof.Machine.execFrameReceived bytes s
  | .frameTimeout bytes => Sys2Proof.Machine.execFrameTimeout bytes s
  | .lineBreakEnd heldMs => Sys2Proof.Machine.execLineBreakEnd heldMs s
  | .transmitStart => Sys2Proof.Machine.execTransmitStart s
  | .frameTransmitted => Sys2Proof.Machine.execFrameTransmitted s
  | .unknownRequest tag code values => Sys2Proof.Machine.execUnknownRequest tag code values s
  | .setScan tag mode period => Sys2Proof.Machine.execSetScan tag mode period s
  | .setChannel tag channel level lower upper => Sys2Proof.Machine.execSetChannel tag channel level lower upper s
  | .scanOnce tag => Sys2Proof.Machine.execScanOnce tag s
  | .getSample tag => Sys2Proof.Machine.execGetSample tag s
  | .setCrane tag lb ls h ap ar => Sys2Proof.Machine.execSetCrane tag lb ls h ap ar s
  | .getPose tag => Sys2Proof.Machine.execGetPose tag s
  | .tableBegin tag => Sys2Proof.Machine.execTableBegin tag s
  | .tableWrite tag row cells => Sys2Proof.Machine.execTableWrite tag row cells s
  | .tableEnd tag check => Sys2Proof.Machine.execTableEnd tag check s
  | .tableRead tag row => Sys2Proof.Machine.execTableRead tag row s
  | .setZone tag index sectorStart sectorEnd reachMin reachMax heightMin heightMax kind fns => Sys2Proof.Machine.execSetZone tag index sectorStart sectorEnd reachMin reachMax heightMin heightMax kind fns s
  | .clearZone tag index => Sys2Proof.Machine.execClearZone tag index s
  | .getZone tag index => Sys2Proof.Machine.execGetZone tag index s
  | .setSort tag sort apply => Sys2Proof.Machine.execSetSort tag sort apply s
  | .mark tag => Sys2Proof.Machine.execMark tag s
  | .setWeigh tag budget still tolerance motion grip release regrip trim tare => Sys2Proof.Machine.execSetWeigh tag budget still tolerance motion grip release regrip trim tare s
  | .getWeigh tag => Sys2Proof.Machine.execGetWeigh tag s
  | .weighFlush tag => Sys2Proof.Machine.execWeighFlush tag s
  | .weighDiscard tag => Sys2Proof.Machine.execWeighDiscard tag s
  | .setPayload tag limit => Sys2Proof.Machine.execSetPayload tag limit s
  | .tallyAdjust tag sort amount => Sys2Proof.Machine.execTallyAdjust tag sort amount s
  | .tallySet tag weights => Sys2Proof.Machine.execTallySet tag weights s
  | .loadClose tag closeMode => Sys2Proof.Machine.execLoadClose tag closeMode s
  | .getTally tag => Sys2Proof.Machine.execGetTally tag s
  | .fetchRecords tag number => Sys2Proof.Machine.execFetchRecords tag number s
  | .setStream tag mode threshold => Sys2Proof.Machine.execSetStream tag mode threshold s
  | .zero tag => Sys2Proof.Machine.execZero tag s
  | .span tag mass => Sys2Proof.Machine.execSpan tag mass s
  | .opAbort tag => Sys2Proof.Machine.execOpAbort tag s
  | .getPermits tag => Sys2Proof.Machine.execGetPermits tag s
  | .setLines tag m0 p0 m1 p1 m2 p2 m3 p3 => Sys2Proof.Machine.execSetLines tag m0 p0 m1 p1 m2 p2 m3 p3 s
  | .getLines tag => Sys2Proof.Machine.execGetLines tag s
  | .setSupervision tag interval => Sys2Proof.Machine.execSetSupervision tag interval s
  | .resume tag => Sys2Proof.Machine.execResume tag s
  | .setEvents tag mode mask => Sys2Proof.Machine.execSetEvents tag mode mask s
  | .getEvents tag => Sys2Proof.Machine.execGetEvents tag s
  | .getDetail tag kind => Sys2Proof.Machine.execGetDetail tag kind s
  | .setLink tag speed keep => Sys2Proof.Machine.execSetLink tag speed keep s
  | .reset tag => Sys2Proof.Machine.execReset tag s
  | .ping tag => Sys2Proof.Machine.execPing tag s
  | .getStatus tag => Sys2Proof.Machine.execGetStatus tag s
  | .lenOutOfRange len => Sys2Proof.Machine.execLenOutOfRange len s

end Sys2Proof.Machine
end

