-- ==== Sys2Proof/WellFormed.lean ====
section
/-! DEFINITION. When a command is one the manual describes: the counts and ranges that the row itself names (not the ranges that a
request is refused for, which are the owning block's checks). -/
namespace Sys2Proof

/-- The request codes of R196. -/
def requestCodes : List Nat :=
  [0x10, 0x11, 0x12, 0x13, 0x18, 0x19, 0x20, 0x21, 0x22, 0x23, 0x28, 0x29, 0x2A, 0x30, 0x31, 0x38, 0x39, 0x3A, 0x3B] ++
  [0x40, 0x41, 0x42, 0x43, 0x44, 0x48, 0x49, 0x50, 0x51, 0x52, 0x58, 0x59, 0x5A, 0x5B, 0x5C, 0x60, 0x61, 0x62] ++
  [0x70, 0x71, 0x72, 0x73]

/-- The least LEN and the greatest (R181). -/
def lenInRange (n : Nat) : Bool := 2 ≤ n && n ≤ 250

/-- The checks of a command: TABLE_WRITE carries eight cells (R32), TALLY_SET twelve weights (R117), UNKNOWN_REQUEST a code that
R196 does not list and a BODY of at most 248 bytes (R181), FRAME_RECEIVED at least one byte (R182), LEN_OUT_OF_RANGE a LEN outside
2 to 250 (R182), LINE_BREAK_END a space of 100 ms or more (R190). -/
def Instr.wf : Instr → Bool
  | .tableWrite _ _ cells => cells.length == 8
  | .tallySet _ weights => weights.length == 12
  | .unknownRequest _ code values => !requestCodes.contains code.toNat && values.length ≤ 247
  | .frameReceived bytes => !bytes.isEmpty
  | .lenOutOfRange len => !lenInRange len.toNat
  | .lineBreakEnd heldMs => 100 ≤ heldMs.toNat
  | .powerOn _ | .scanTimerExpiry | .scanCompletion _ | .regripTimerExpiry | .auxInputChange _ _ | .auxDebounceExpiry _
  | .supervisionTimerExpiry | .frameTimeout _ | .transmitStart | .frameTransmitted | .setScan _ _ _ | .setChannel _ _ _ _ _
  | .scanOnce _ | .getSample _ | .setCrane _ _ _ _ _ _ | .getPose _ | .tableBegin _ | .tableEnd _ _ | .tableRead _ _
  | .setZone _ _ _ _ _ _ _ _ _ _ | .clearZone _ _ | .getZone _ _ | .setSort _ _ _ | .mark _
  | .setWeigh _ _ _ _ _ _ _ _ _ _ | .getWeigh _ | .weighFlush _ | .weighDiscard _ | .setPayload _ _ | .tallyAdjust _ _ _
  | .loadClose _ _ | .getTally _ | .fetchRecords _ _ | .setStream _ _ _ | .zero _ | .span _ _ | .opAbort _ | .getPermits _
  | .setLines _ _ _ _ _ _ _ _ _ | .getLines _ | .setSupervision _ _ | .resume _ | .setEvents _ _ _ | .getEvents _
  | .getDetail _ _ | .setLink _ _ _ | .reset _ | .ping _ | .getStatus _ => true

end Sys2Proof
end

