-- ==== Sys2Proof/Safety.lean ====
section
/-! DEFINITION. What counts as a safe state, in the terms the claims use: the invariants that the manual states block by block, and
the words in which a request's outcome is said. -/
namespace Sys2Proof.Machine

/-! ### A request that is taken at its arrival -/

/-- The reply slot and the receive buffer are empty, so that a request is taken at its arrival (R186). -/
def State.linkReady (s : State) : Prop := s.link.slot = none ∧ s.link.buffer = []

/-- The state with a reply in the slot. -/
def State.withReply (s : State) (r : Reply) : State := { s with link := { s.link with slot := some r } }

/-- The state with the reply of this tag, code, status and results; it carries no record and changes nothing at its end. -/
def State.replied (s : State) (tag code : Byte) (status : Status) (results : List Byte) : State :=
  s.withReply ⟨tag, code, status, results, 0, .nothing⟩

/-! ### Tally (R104, R105, R121) -/

/-- A sort entry lies in its ranges (R104). -/
def SortEntry.inRange (e : SortEntry) : Prop :=
  e.bunk ≤ 99999 ∧ e.loaded ≤ 16777215 ∧ e.unloaded ≤ 16777215 ∧ -8388608 ≤ e.adjusted ∧ e.adjusted ≤ 8388607
    ∧ e.loadLifts ≤ 255 ∧ e.unloadLifts ≤ 255

/-- Every sort entry and every figure of the load lies in its range (R104, R105, R112). -/
def Tally.inRange (t : Tally) : Prop :=
  (∀ k : Fin 12, t.entries[k].inRange) ∧ 1 ≤ t.loadNumber ∧ t.loadNumber ≤ 65535 ∧ 1 ≤ t.nextLift ∧ t.nextLift ≤ 65535
    ∧ t.shifts ≤ 65535 ∧ t.returns ≤ 65535 ∧ t.unweighed ≤ 65535 ∧ 1 ≤ t.limit ∧ t.limit ≤ 99999

/-- The sum of a figure over the twelve sorts. -/
def Tally.sumOf (f : SortEntry → Int) (t : Tally) : Int := sumInt (t.entries.toList.map f)

/-- The load balances (R121): the bunk total is the opening total, plus the loaded and adjusted amounts, minus the unloaded amounts. -/
def Tally.balances (t : Tally) : Prop :=
  (t.total : Int) = t.opening + t.sumOf (fun e => e.loaded) + t.sumOf SortEntry.adjusted - t.sumOf (fun e => e.unloaded)

/-- While no lift number has been given, the load has no amounts (R105, R117). -/
def Tally.freshWhenUnnumbered (t : Tally) : Prop :=
  1 ≤ t.nextLift ∧ (t.nextLift = 1 → ∀ k : Fin 12, t.entries[k].loaded = 0 ∧ t.entries[k].unloaded = 0 ∧ t.entries[k].adjusted = 0)

/-! ### Record queue (R125, R132) -/

/-- The marked records form an unbroken run at the head (R132). -/
def marksAtHead : List HeldRecord → Bool
  | [] => true
  | h :: t => if h.marked then marksAtHead t else t.all fun x => !x.marked

/-- At most 30 lift records and 2 load records, marks at the head (R125, R132). -/
def RecordQueue.inBounds (q : RecordQueue) : Prop := q.lifts ≤ 30 ∧ q.loads ≤ 2 ∧ marksAtHead q.records = true

/-! ### Permit unit (R154 to R156, R164) -/

/-- Every row of the contribution table shows its source's condition (R154, R156), and the outputs are the most restrictive
contributions (R155). -/
def State.permitsAgree (s : State) : Prop :=
  s.permit.outputs = s.permit.rows.combine
    ∧ s.permit.rows.zone = zoneRow s.zones.summary
    ∧ s.permit.rows.overload = (if s.weigh.overload then rowOverload else rowNone)
    ∧ s.permit.rows.pose = (if s.pose.latest.any Pose.valid then rowNone else rowSlowAll)
    ∧ s.permit.rows.table = (if s.table.state = .valid then rowNone else rowTable)
    ∧ s.permit.rows.mode = (if s.scanner.mode = .manual then rowSlowAll else rowNone)
    ∧ s.permit.rows.interlock = (if s.permit.aux.toList.any AuxLine.interlocked then rowHold else rowNone)
    ∧ s.permit.rows.supervision = s.permit.sup.stage.row

/-- Supervision is as R164 allows: the interval, and the timer running exactly in NORMAL and WARNED. -/
def Supervision.consistent (v : Supervision) : Prop :=
  intervalOk v.interval = true ∧ (v.stage = .off ↔ v.interval = 0) ∧ (v.timer = none ↔ v.stage = .off ∨ v.stage = .stopped)

/-! ### Tracker, weigh unit, operation unit (R52, R87, R144, R148) -/

/-- The budget of the context held (R87). -/
def Context.budget : Context → Nat
  | .absent => 0
  | .lift c => c.budget
  | .calibration c => c.budget

/-- The window is one that samples can still join or that is kept for it. -/
def WindowState.unfinished : WindowState → Bool
  | .opened => true | .suspended => true | .frozen => true | .unopened => false | .closed _ => false

/-- The budget of a context held is one that SET_WEIGH allows (R77, R80, R100). The window holds no more samples than the budget, fewer
while it is not CLOSED, and none while it is NONE (R87, R93). -/
def Weigh.windowFits (w : Weigh) : Prop :=
  (w.context.held = true → 8 ≤ w.context.budget ∧ w.context.budget ≤ 64)
    ∧ w.window.samples.length ≤ w.context.budget
    ∧ (w.window.state.unfinished = true → w.window.samples.length < w.context.budget)
    ∧ (w.window.state = .unopened → w.window.samples = [])

/-- The context goes with the tracker state: a lift context with a lift in progress, a calibration context in CALIBRATION, none in
EMPTY and HELD, where the window is NONE (R52, R80, R87, R100). -/
def State.contextFits (s : State) : Prop :=
  match s.tracker.state, s.weigh.context with
  | .empty, .absent => s.weigh.window.state = .unopened
  | .held, .absent => s.weigh.window.state = .unopened
  | .gripped _, .lift _ => True
  | .releaseHold _ _ _, .lift _ => True
  | .calibration, .calibration _ => True
  | _, _ => False

/-- A running operation stands in the conditions of its acceptance (R17, R139, R144, R148). -/
def State.operationFits (s : State) : Prop :=
  match s.op.slot with
  | none => s.scanner.running.all (fun r => !r.isOnce) = true
  | some (.zero count _ skipped) =>
    s.scanner.mode = .auto ∧ s.tracker.state = .empty ∧ s.table.state = .valid ∧ count < 32 ∧ skipped < 8
      ∧ s.scanner.running.all (fun r => !r.isOnce) = true
  | some (.span mass) =>
    s.tracker.state = .calibration ∧ s.weigh.window.state = .opened ∧ s.table.state = .valid ∧ 100 ≤ mass ∧ mass ≤ 10000
      ∧ s.scanner.running.all (fun r => !r.isOnce) = true
  | some .scanOnce => s.scanner.mode = .manual

/-- The scanner is as R4, R5 and R6 allow: the period in its range, the budget, and no timer in MANUAL; in MANUAL, and only there, the
tracker is HELD (R69). -/
def State.scannerFits (s : State) : Prop :=
  5 ≤ s.scanner.period ∧ s.scanner.period ≤ 100 ∧ budgetHolds s.scanner.levels s.scanner.period = true
    ∧ (s.scanner.mode = .manual → s.scanner.timer = none) ∧ (s.scanner.mode = .manual ↔ s.tracker.state = .held)

/-- The crane side is consistent: scanner, tracker, context, window, operation, parameters. -/
def State.craneSafe (s : State) : Prop :=
  s.scannerFits ∧ s.contextFits ∧ s.weigh.windowFits ∧ s.operationFits ∧ weighParamsOk s.weigh.params = true

/-- The scanner keeps time: a scan in progress has not outlived its length (R2), and the scan timer, where it runs, expires within the
longest period and beyond the end of the scan in progress (R4, R5). So no expiry finds a scan in progress. -/
def State.scanOnTime (s : State) : Prop :=
  (∀ run, s.scanner.running = some run →
      (s.time - run.start).toNat ≤ scanDuration run.levels / 1000
        ∧ ∀ e, s.scanner.timer = some e → scanDuration run.levels / 1000 < (e - run.start).toNat)
    ∧ ∀ e, s.scanner.timer = some e → (e - s.time).toNat ≤ 100

/-! ### Occurrences (R169, R170) -/

/-- One occurrence between two states: its detail record, and its kind's count one higher, or still at 255. -/
def State.occurred (s t : State) (d : Detail) : Prop :=
  t.events.detail d.kind = some d ∧ t.events.count d.kind = satInc 255 (s.events.count d.kind)

/-- No occurrence of a kind between two states: detail record and count stay. -/
def State.silent (s t : State) (k : Kind) : Prop :=
  t.events.detail k = s.events.detail k ∧ t.events.count k = s.events.count k

/-- The occurrence where the condition holds, and none of its kind where it does not. -/
def State.occursIff (s t : State) (c : Prop) (d : Detail) : Prop := (c → s.occurred t d) ∧ (¬c → s.silent t d.kind)

/-! ### Aborting (R18, R100, R141 to R143) -/

/-- What an abort does to the slot, the SPAN window and the scan of a SCAN_ONCE, and its OP_DONE; with the slot IDLE, nothing. -/
def State.aborts (cause : AbortCause) (s t : State) : Prop :=
  let ends := fun (kind : OpKind) (samples skipped : Nat) (mass : Option Nat) =>
    t.op = ⟨none, some ⟨kind, .aborted cause, s.time⟩⟩
      ∧ s.occurred t (.opDone {
          kind := kind, result := .aborted cause, value := none, samples := samples, skipped := skipped, mean := none, mass := mass
          time := s.time })
  (s.op.slot = none → t.op = s.op ∧ s.silent t .opDone)
    ∧ (∀ count sum skipped, s.op.slot = some (.zero count sum skipped) → ends .zero count skipped none)
    ∧ (∀ mass, s.op.slot = some (.span mass) → ends .span s.weigh.window.samples.length 0 (some mass))
    ∧ (s.op.slot = some .scanOnce → ends .scanOnce 0 0 none)
    ∧ t.weigh = { s.weigh with window := { s.weigh.window with
        state := if s.op.slot.map Op.kind = some .span ∧ s.weigh.window.state = .opened then .closed .short else s.weigh.window.state } }
    ∧ t.scanner = { s.scanner with
        running := if s.op.slot = some .scanOnce ∧ s.scanner.running.any (fun r => r.loaded.isNone) = true then none
          else s.scanner.running }

/-! ### The steps of a judged scan (R89, R91 to R93) -/

/-- The fault, sample, stillness and budget steps take the window `w` to `u`. `accepted x` says that x is the scan's accepted sample;
a calibration context has no stillness count and tolerance (R100). -/
def Window.stepsTo (bandFails : Prop) (accepted : Int → Prop) (budget : Nat) (still : Option (Nat × Nat)) (w u : Window) : Prop :=
  (w.state ≠ .opened → u = w)
    ∧ (w.state = .opened → bandFails → u = { w with state := .closed .fault })
    ∧ (w.state = .opened → ¬bandFails → (∀ x, ¬accepted x) → u = w)
    ∧ ∀ x, w.state = .opened → ¬bandFails → accepted x →
        let list := w.samples ++ [x]
        let isStill := ∃ n tolerance, still = some (n, tolerance) ∧ n ≤ list.length
          ∧ ∀ y ∈ list.drop (list.length - n), y * n - (list.drop (list.length - n)).sum ≤ (tolerance : Int) * n
              ∧ (list.drop (list.length - n)).sum - y * n ≤ (tolerance : Int) * n
        (isStill → u = ⟨.closed .still, list, w.missed⟩)
          ∧ (¬isStill → budget ≤ list.length → u = ⟨.closed .full, list, w.missed⟩)
          ∧ (¬isStill → list.length < budget → u = ⟨.opened, list, w.missed⟩)

/-! ### Finalization (R63, R106) -/

/-- A lift finalized at this moment: what becomes of the tally and of the record queue, and its occurrences. -/
def State.finalizes (s t : State) (l : Lift) (rel : Release) (result : WindowResult) : Prop :=
  let d := directionOf l.origin rel.destination
  let e := s.tally.entries[l.sort]
  let applied := liftApplied e d result.weight
  let q := s.records
  t.tally = s.tally.apply l.sort d result.weight
    ∧ (q.lifts < 30 → t.records.gap = ⟨0, 0, 0, 0⟩ ∧ t.records.mode = q.mode ∧ t.records.threshold = q.threshold ∧ ∃ r : LiftRecord,
        t.records.records = q.records ++ [⟨.lift r, false⟩]
        ∧ r.loadNumber = s.tally.loadNumber ∧ r.liftNumber = s.tally.nextLift ∧ r.direction = d ∧ r.sort = l.sort
        ∧ r.marked = l.marked ∧ r.overloadSeen = l.overloadSeen ∧ r.regrips = l.regrips ∧ r.weight = result.weight
        ∧ r.status = some result.status ∧ r.count = result.count ∧ r.spread = result.spread
        ∧ r.origin = some l.origin ∧ r.destination = some rel.destination ∧ r.gripTime = l.gripTime ∧ r.finalTime = s.time
        ∧ r.reach = rel.reach ∧ r.slew = rel.slew ∧ r.applied = applied ∧ r.excess = liftExcess e d result.weight
        ∧ r.unweighed = ((d == .load || d == .unload) && result.weight.isNone)
        ∧ r.gap = (if q.gap.lifts = 0 then none else some q.gap))
    ∧ (30 ≤ q.lifts → t.records = { q with gap := q.gap.fold d applied })
    ∧ s.occurred t (.liftDone s.tally.loadNumber s.tally.nextLift d l.sort result.status result.weight s.time)
    ∧ s.occursIff t ((d = .load ∨ d = .unload) ∧ result.weight = none)
        (.liftUnweighed s.tally.loadNumber s.tally.nextLift d l.sort result.status result.count s.time)
    ∧ s.occursIff t (d = .load ∧ s.tally.total ≤ s.tally.limit ∧ s.tally.limit < t.tally.total)
        (.payloadLimit s.tally.loadNumber s.tally.nextLift l.sort applied t.tally.total s.tally.limit s.time)
    ∧ s.occursIff t (30 ≤ q.lifts ∧ q.gap.lifts = 0)
        (.recordGap s.tally.loadNumber s.tally.nextLift d q.lifts q.loads s.time)
    ∧ s.occursIff t (q.lifts < 30 ∧ q.mode = .polled ∧ q.records.length + 1 = q.threshold)
        (.recordsReady .threshold (q.lifts + 1) q.loads s.time)

/-! ### PERMIT_HOLD (R157) -/

/-- The functions that an evaluation between two states took to HOLD. -/
def wentToHold (s t : State) : PerFn Bool := s.permit.outputs.zip (fun old new => old != .hold && new == .hold) t.permit.outputs

/-- PERMIT_HOLD as R157 requires it of an evaluation between two states: one occurrence that names the functions taken to HOLD and the
sources that hold each function, and none where no function went to HOLD. -/
def State.holdReported (cause : HoldCause) (s t : State) : Prop :=
  s.occursIff t ((wentToHold s t).toList.any id = true)
    (.permitHold (wentToHold s t) t.permit.rows.allHoldSources cause s.time)

/-! ### The notice queue (R173, R175) -/

/-- A kind waits for a place: it is raised and has no notice in the queue (R173). -/
def EventUnit.waits (e : EventUnit) (k : Kind) : Prop := e.isPending k = true ∧ e.isEnabled k = true ∧ e.hasNotice k = false

/-- Nothing is left to queue, to withdraw or to arm. In ITEMIZED the queue is full or no kind waits (R173). In SUMMARY a raised set with
the flag armed has its ATTENTION in the queue, and an empty one has none behind the head, which may be in transmission. An empty raised
set leaves the flag armed (R175). -/
def EventUnit.settled (e : EventUnit) : Prop :=
  (e.mode = .itemized → 8 ≤ e.queue.length ∨ ∀ k, ¬e.waits k)
    ∧ (e.mode = .summary → e.raised ≠ 0 → e.armed = true → Notice.attention ∈ e.queue)
    ∧ (e.mode = .summary → e.raised = 0 → Notice.attention ∉ e.queue.drop 1)
    ∧ (e.raised = 0 → e.armed = true)

/-! ### The receive buffer (R186) -/

/-- No request waits on an empty reply slot. -/
def LinkPort.settled (l : LinkPort) : Prop := l.slot = none → l.buffer = []

/-! ### Geometry table (R30) -/

/-- EMPTY holds no contents, VALID holds contents in all rows (R30). -/
def Geometry.consistent (g : Geometry) : Prop :=
  (g.state = .empty → ∀ r : Fin 16, g.rows[r] = none) ∧ (g.state = .valid → ∀ r : Fin 16, g.rows[r].isSome = true)

/-! ### Runs -/

/-- A run is safe when no step faults or is refused; every step of this part answers a next state. -/
def safeStep (s : State) : Prop := ∃ t, step s = .next t

end Sys2Proof.Machine
end

