-- ==== Sys2Proof/Certificates/Slice0/Obligations.lean ====
section
/-! DEFINITION. The statements for the provers, by the spec's chapters. A word on their form: a request's statement gives the whole
next state, so that what it does not name is unchanged (its frame). `linkReady` is an empty reply slot and an empty receive buffer,
so that a request is taken at its arrival (R186); `replied` is the state with the reply in the slot. -/
section
open Sys2Proof Sys2Proof.Machine

/-! ### The queue of commands -/

/-- The step takes the front command and runs it on the state with the queue's rest; on an empty queue the block idles, and with nothing
due the time counter counts one millisecond, wraps, and nothing else changes (log 1). -/
def Obligations.StepRunsTheFrontCommand : Prop :=
  (∀ (c : Instr) (rest : List Instr) (s : State), s.pending = c :: rest → step s = exec c { s with pending := rest })
    ∧ (∀ s : State, s.pending = [] → step s = .next (idle s))
    ∧ ∀ s : State, s.pending = [] → (∀ l ∈ due s, l = []) → step s = .next { s with time := s.time + 1 }

/-- No step of the part faults or is refused, and no command touches the queue behind it. -/
def Obligations.CommandsAlwaysCompleteAndKeepTheQueue : Prop :=
  ∀ (c : Instr) (s : State), ∃ t, exec c s = .next t ∧ t.pending = s.pending

/-! ### Power-on and link reset -/

/-- The values after power-on, block by block, as the chapters state them but for what the model reads: that the RESTARTED notice is queued
and its pending bit clear, and that the scan timer stands loaded with the first scan begun (log 12). POWER_ON takes every block to them in
any state; the aux inputs stand as the supply finds them (log 11). -/
def Obligations.PowerOnValues : Prop :=
  let s := State.reset
  s.time = 0
    ∧ s.scanner.mode = .auto ∧ s.scanner.period = 10 ∧ s.scanner.timer = some 10 ∧ s.scanner.latest = none
    ∧ (∀ c : Fin 12, s.scanner.channels[c].level = 2)
    ∧ (∀ c : Fin 12, c ≠ 11 → s.scanner.channels[c].lower = fullRangeLow c ∧ s.scanner.channels[c].upper = fullRangeHigh c)
    ∧ s.scanner.channels[11].lower = 30000 ∧ s.scanner.channels[11].upper = 35535
    ∧ s.pose.crane = none ∧ s.pose.latest = none ∧ s.pose.prev = none
    ∧ s.table.state = .empty ∧ (∀ r : Fin 16, s.table.rows[r] = none)
    ∧ s.zones.summary = none
    ∧ (∀ e : Fin 16, s.zones.entries[e].contents = none ∧ s.zones.entries[e].result = .notJudged
        ∧ s.zones.entries[e].edited = false)
    ∧ s.tracker.state = .empty ∧ s.tracker.sort = 0
    ∧ s.weigh.params = ⟨32, 8, 40, 150, 6000, 3000, 800, 1000, 0⟩ ∧ s.weigh.newer = none ∧ s.weigh.older = none
    ∧ s.weigh.context = .absent ∧ s.weigh.window = ⟨.unopened, [], false⟩ ∧ s.weigh.overload = false ∧ s.weigh.latest = none
    ∧ s.op.slot = none ∧ s.op.last = none
    ∧ (∀ k : Fin 12, s.tally.entries[k] = ⟨0, 0, 0, 0, 0, 0⟩) ∧ s.tally.loadNumber = 1 ∧ s.tally.opening = 0
    ∧ s.tally.nextLift = 1 ∧ s.tally.shifts = 0 ∧ s.tally.returns = 0 ∧ s.tally.unweighed = 0 ∧ s.tally.openTime = 0
    ∧ s.tally.limit = 15000
    ∧ s.records.records = [] ∧ s.records.gap = ⟨0, 0, 0, 0⟩ ∧ s.records.mode = .polled ∧ s.records.threshold = 4
    ∧ s.permit.outputs = .const .slow
    ∧ (∀ l : Fin 4, s.permit.aux[l].mode = .off ∧ s.permit.aux[l].activeHigh = true ∧ s.permit.aux[l].level = false
        ∧ s.permit.aux[l].lastEdge = none)
    ∧ s.permit.sup = ⟨0, .off, none, none⟩
    ∧ s.events.mode = .itemized ∧ s.events.armed = true ∧ s.events.queue = [.event .restarted]
    ∧ (∀ k : Kind, s.events.isEnabled k = (k != .liftDone && k != .lineState))
    ∧ (∀ k : Kind, s.events.count k = if k = .restarted then 1 else 0)
    ∧ (∀ k : Kind, s.events.detail k = if k = .restarted then some (.restarted .power false 0) else none)
    ∧ s.link.rx = none ∧ s.link.buffer = [] ∧ s.link.slot = none ∧ s.link.tx = none ∧ s.link.speed = 1 ∧ s.link.keep = false
    ∧ s.link.cause = .power
    ∧ s.events.pending = 0 ∧ s.scanner.running = some ⟨Vector.replicate 12 2, 0, some 10⟩
    ∧ s.permit.rows.zone = .const .free ∧ s.permit.rows.overload = .const .free ∧ s.permit.rows.pose = .const .slow
    ∧ s.permit.rows.table = ⟨.slow, .slow, .slow, .slow, .free, .free⟩ ∧ s.permit.rows.mode = .const .free
    ∧ s.permit.rows.interlock = .const .free ∧ s.permit.rows.supervision = .const .free
    ∧ (∀ (levels : BitVec 4) (u : State), ∃ t, exec (.powerOn levels) u = .next t
      ∧ t.time = 0 ∧ t.scanner = State.reset.scanner ∧ t.pose = State.reset.pose ∧ t.table = State.reset.table
      ∧ t.zones = State.reset.zones ∧ t.tracker = State.reset.tracker ∧ t.weigh = State.reset.weigh ∧ t.op = State.reset.op
      ∧ t.tally = State.reset.tally ∧ t.records = State.reset.records ∧ t.permit.rows = State.reset.permit.rows
      ∧ t.permit.outputs = State.reset.permit.outputs ∧ t.permit.sup = State.reset.permit.sup ∧ t.events = State.reset.events
      ∧ t.link = State.reset.link ∧ t.pending = u.pending
      ∧ ∀ l : Fin 4, t.permit.aux[l] = { State.reset.permit.aux[l] with input := levels.getLsbD l.val })

/-- A line break of 100 ms or more causes a link reset with cause BREAK; a shorter space changes nothing. What a link reset of any cause
does to each block, and what it leaves alone: link port, table, record queue, the abort of a running operation with its OP_DONE, the event
unit's settings, RESTARTED, RECORDS_READY, supervision. Step by step by R179: the event unit is `e` once every notice has left the queue,
its kind pending again, the mode and mask are those after KEEP, the flag is armed and RESTARTED has occurred. What settling and an
occurrence do is OccurrenceReachesTheEventUnit's. The model's readings: that `e` settles, RESTARTED and the refill of the queue with it,
before OP_DONE, RECORDS_READY and PERMIT_HOLD of other blocks reach the event unit, where R179 says only that they come after its step 1
(log 19); the order of these, which is a free value (log 8); samples 0 in an OP_DONE of a SCAN_ONCE, which R141 does not give (log 16); and
that no record goes before RESTARTED with KEEP in STREAM (log 31). -/
def Obligations.LineBreakResetsTheLink : Prop :=
  (∀ (held : BitVec 32) (s : State), (held.toNat < 100 → exec (.lineBreakEnd held) s = .next s)
    ∧ (100 ≤ held.toNat → exec (.lineBreakEnd held) s = .next (linkReset .break_ s)))
  ∧ ∀ (cause : StartCause) (s : State),
    let t := linkReset cause s
    let sup := s.permit.sup
    let timed := sup.stage = .normal ∨ sup.stage = .warned
    t.link = { s.link with
        rx := none, buffer := [], slot := none, tx := none, cause := cause, speed := if s.link.keep then s.link.speed else 1 }
    ∧ t.table = (if s.table.state = .loading then ⟨.empty, Vector.replicate 16 none⟩ else s.table)
    ∧ t.records.records = s.records.records.map (fun h => ⟨h.record, false⟩) ∧ t.records.gap = s.records.gap
    ∧ t.records.mode = (if s.link.keep then s.records.mode else .polled)
    ∧ t.records.threshold = (if s.link.keep then s.records.threshold else 4)
    ∧ t.op.slot = none ∧ s.aborts .linkReset t
    ∧ t.events.mode = (if s.link.keep then s.events.mode else .itemized)
    ∧ t.events.mask = (if s.link.keep then s.events.mask else powerOnMask)
    ∧ s.occurred t (.restarted cause s.link.keep s.time)
    ∧ s.occursIff t (t.records.mode = .polled ∧ (t.records.threshold ≤ s.records.records.length ∨ s.records.loads ≠ 0))
        (.recordsReady .reset s.records.lifts s.records.loads s.time)
    ∧ (∀ kind, kind ∉ [.restarted, .opDone, .recordsReady, .permitHold] → s.silent t kind)
    ∧ (∃ (e : EventUnit) (later : List Detail),
        e.queue = [] ∧ e.armed = true ∧ e.mode = t.events.mode ∧ e.mask = t.events.mask
        ∧ (∀ k, e.isPending k = (s.events.isPending k || s.events.hasNotice k || k == .restarted))
        ∧ (∀ k, e.count k = if k = .restarted then satInc 255 (s.events.count k) else s.events.count k)
        ∧ (∀ k, e.detail k = if k = .restarted then some (.restarted cause s.link.keep s.time) else s.events.detail k)
        ∧ (∀ d ∈ later, d.kind ∈ [.opDone, .recordsReady, .permitHold])
        ∧ t.events = later.foldl (EventUnit.raise false) (e.settle false))
    ∧ (timed → t.permit.sup = { sup with stage := .normal, timer := some (s.time + BitVec.ofNat 32 sup.interval) })
    ∧ (¬timed → t.permit.sup = sup)
    ∧ (sup.stage = .warned → t.permit.rows = { s.permit.rows with supervision := .const .free }
        ∧ t.permit.outputs = t.permit.rows.combine)
    ∧ (sup.stage ≠ .warned → t.permit.rows = s.permit.rows ∧ t.permit.outputs = s.permit.outputs)
    ∧ t.permit.aux = s.permit.aux
    ∧ t.time = s.time ∧ t.tracker = s.tracker ∧ t.zones = s.zones ∧ t.tally = s.tally ∧ t.pose = s.pose

/-! ### Scanner -/

/-- At its expiry in AUTO the scan timer starts a scan with the levels in force and is reloaded from the holding value. The model's
choices: at any other moment the command changes nothing (log 2), and an expiry during a scan, which the budget rules out, leaves that
scan running with the timer stopped, so that the next scan waits for its completion (log 3). -/
def Obligations.ScanTimerExpiryStartsAScan : Prop :=
  ∀ s : State,
    (s.scanner.mode = .auto ∧ s.scanner.timer = some s.time → s.scanner.running = none →
      exec .scanTimerExpiry s = .next { s with scanner := { s.scanner with
        running := some ⟨Vector.ofFn fun c => s.scanner.channels[c].level, s.time, some s.scanner.period⟩
        timer := some (s.time + BitVec.ofNat 32 s.scanner.period) } })
    ∧ (s.scanner.mode = .auto ∧ s.scanner.timer = some s.time → s.scanner.running ≠ none →
      exec .scanTimerExpiry s = .next { s with scanner := { s.scanner with timer := none } })
    ∧ (¬(s.scanner.mode = .auto ∧ s.scanner.timer = some s.time) → exec .scanTimerExpiry s = .next s)

/-- A scan completion replaces the latest scan whole: raw counts, compensated and scaled values, band states, referenced flag, time. It
reports CHANNEL_BAND once for each channel that leaves IN, the detail being that of the highest-numbered one, and REF_FAULT for an
unreferenced scan after a referenced one (or none). The settings of the scanner stay; a scan that waited for this completion starts. -/
def Obligations.ScanCompletionReplacesTheLatestScan : Prop :=
  ∀ (raw : Vector (BitVec 16) 12) (run : ScanRun) (s : State),
    s.scanner.running = some run → scanDuration run.levels / 1000 ≤ (s.time - run.start).toNat →
    ∃ t scan, exec (.scanCompletion raw) s = .next t ∧ t.scanner.latest = some scan
      ∧ scan.raw = raw ∧ scan.time = s.time
      ∧ (∀ c : Fin 12, ∃ counts : Int,
          counts = (if c.val < 3 then max (0 : Int) (min 65535 ((raw[c].toNat : Int) - ((raw[11].toNat : Int) - 32768)))
              else ((raw[c].toNat : Nat) : Int))
            ∧ scan.scaled[c] = counts * channelSpan[c] / 65536 + channelBase[c])
      ∧ (∀ c : Fin 12, (scan.band[c] = .low ↔ scan.scaled[c] < s.scanner.channels[c].lower)
          ∧ (scan.band[c] = .high ↔ s.scanner.channels[c].lower ≤ scan.scaled[c] ∧ s.scanner.channels[c].upper < scan.scaled[c]))
      ∧ (scan.referenced = true ↔ scan.band[11] = .inside ∧ scan.band[10] = .inside)
      ∧ t.scanner.channels = s.scanner.channels ∧ t.scanner.mode = s.scanner.mode ∧ t.scanner.period = s.scanner.period
      ∧ (let left := fun c : Fin 12 => (s.scanner.latest.all fun old : Scan => old.band[c] == .inside) && scan.band[c] != .inside
        (∀ c : Fin 12, left c = true → (∀ d : Fin 12, c < d → left d = false) →
          t.events.detail .channelBand = some (.channelBand c (scan.band[c] == .high) scan.scaled[c] s.time))
        ∧ ((∀ c, left c = false) → t.events.detail .channelBand = s.events.detail .channelBand)
        ∧ (s.events.count .channelBand ≤ 255 →
            t.events.count .channelBand = min 255 (s.events.count .channelBand + (List.finRange 12).countP left)))
      ∧ (let fault := (s.scanner.latest.all Scan.referenced) && !scan.referenced
        let polarity := fun b : Band => if b = .inside then none else some (b == .high)
        let failed : RefFailed := if scan.band[10] = .inside then .ref else if scan.band[11] = .inside then .supply else .both
        (fault = true → t.events.detail .refFault = some (.refFault failed (polarity scan.band[11]) (polarity scan.band[10]) raw[11]
              scan.scaled[10] s.time)
          ∧ t.events.count .refFault = satInc 255 (s.events.count .refFault))
        ∧ (fault = false → t.events.detail .refFault = s.events.detail .refFault
          ∧ t.events.count .refFault = s.events.count .refFault))
      ∧ (let fresh := fun loaded : Option Nat => some (⟨s.scanner.levels, s.time, loaded⟩ : ScanRun)
        (s.scanner.mode = .auto → s.scanner.timer ≠ none → t.scanner.running = none ∧ t.scanner.timer = s.scanner.timer)
        ∧ (s.scanner.mode = .auto → s.scanner.timer = none → t.scanner.running = fresh (some s.scanner.period)
            ∧ t.scanner.timer = some (s.time + BitVec.ofNat 32 s.scanner.period))
        ∧ (s.scanner.mode = .manual → t.scanner.timer = s.scanner.timer
            ∧ t.scanner.running = (if s.op.slot = some .scanOnce ∧ run.loaded ≠ none then fresh none else none)))

/-- What a scan completion never touches: the table, the crane constants, the current sort, the link, the aux lines, supervision, the
mask and mode of the event unit; and tally and records unless the scan finalizes a lift. -/
def Obligations.ScanCompletionFrame : Prop :=
  ∀ (raw : Vector (BitVec 16) 12) (run : ScanRun) (s : State),
    s.scanner.running = some run → run.canComplete s.time = true →
    ∃ t, exec (.scanCompletion raw) s = .next t
      ∧ t.time = s.time ∧ t.table = s.table ∧ t.pose.crane = s.pose.crane ∧ t.tracker.sort = s.tracker.sort ∧ t.link = s.link
      ∧ t.permit.aux = s.permit.aux ∧ t.permit.sup = s.permit.sup ∧ t.events.mask = s.events.mask ∧ t.events.mode = s.events.mode
      ∧ (∀ e : Fin 16, t.zones.entries[e].contents = s.zones.entries[e].contents)
      ∧ (s.tracker.state.isGripped = false ∨ s.weigh.params.regrip ≠ 0 → t.tally = s.tally ∧ t.records = s.records)

/-- SET_SCAN: its checks in order, its effect in each case, and its reply. -/
def Obligations.SetScanOutcome : Prop :=
  ∀ (tag mode period : Byte) (s : State), s.linkReady →
    let badValue := 1 < mode.toNat ∨ period.toNat < 5 ∨ 100 < period.toNat
    let overBudget := budgetHolds s.scanner.levels period.toNat = false
    let c := { s.scanner with period := period.toNat }
    let rows := fun l : Level => { s.permit.rows with mode := PerFn.const l }
    let permit := fun l : Level => { s.permit with rows := rows l, outputs := (rows l).combine }
    (s.op.slot ≠ none → exec (.setScan tag mode period) s = .next (s.replied tag 0x10 .busy (scanSettings s)))
    ∧ (s.op.slot = none → badValue ∨ overBudget →
        exec (.setScan tag mode period) s = .next (s.replied tag 0x10 .range (scanSettings s)))
    ∧ (s.op.slot = none → ¬badValue → ¬overBudget → mode = 1 → s.scanner.mode = .auto → s.tracker.state ≠ .empty →
        exec (.setScan tag mode period) s = .next (s.replied tag 0x10 .busy (scanSettings s)))
    ∧ (s.op.slot = none → ¬badValue → ¬overBudget → mode = s.scanner.mode.code →
        exec (.setScan tag mode period) s = .next ({ s with scanner := c }.replied tag 0x10 .ok [mode, period]))
    ∧ (s.op.slot = none → ¬badValue → ¬overBudget → mode = 1 → s.scanner.mode = .auto → s.tracker.state = .empty →
        exec (.setScan tag mode period) s = .next ({ s with
          scanner := { c with mode := .manual, timer := none }
          tracker := { s.tracker with state := .held }
          permit := permit .slow }.replied tag 0x10 .ok [mode, period]))
    ∧ (s.op.slot = none → ¬badValue → ¬overBudget → mode = 0 → s.scanner.mode = .manual →
        exec (.setScan tag mode period) s = .next ({ s with
          scanner := if s.scanner.running = none then { c with mode := .auto }.startAuto s.time else { c with mode := .auto }
          tracker := { s.tracker with state := .empty }
          permit := permit .free }.replied tag 0x10 .ok [mode, period]))

/-- SET_CHANNEL: refused while an operation runs, refused with RANGE when a value or the budget fails, else it writes level and
bounds of its channel alone; the reply carries the level and bounds in force. For a channel above 11 there are none in force, and the
reply carries no results: the model's reading (log 27). -/
def Obligations.SetChannelOutcome : Prop :=
  ∀ (tag channel level : Byte) (lower upper : BitVec 16) (s : State), s.linkReady →
    (s.op.slot ≠ none →
      exec (.setChannel tag channel level lower upper) s = .next (s.replied tag 0x11 .busy (channelReply channel s)))
    ∧ (∀ (ch : Fin 12) (lv : Fin 8), s.op.slot = none → channel.toNat = ch.val → level.toNat = lv.val →
        let new : Channel := ⟨lv, boundOf ch lower, boundOf ch upper⟩
        let fits := boundsOk ch new.lower new.upper = true ∧ budgetHolds (s.scanner.levels.set ch lv) s.scanner.period = true
        (fits → exec (.setChannel tag channel level lower upper) s =
          .next ({ s with scanner := { s.scanner with channels := s.scanner.channels.set ch new } }.replied tag 0x11 .ok
            (channelBytes new)))
        ∧ (¬fits → exec (.setChannel tag channel level lower upper) s =
          .next (s.replied tag 0x11 .range (channelBytes s.scanner.channels[ch]))))
    ∧ (s.op.slot = none → 12 ≤ channel.toNat ∨ 8 ≤ level.toNat →
        exec (.setChannel tag channel level lower upper) s = .next (s.replied tag 0x11 .range (channelReply channel s)))

/-- SCAN_ONCE: BUSY while an operation runs, STATE in AUTO; else the slot runs SCAN_ONCE, and its scan starts at acceptance when none
is in progress. That the slot is spelled [1, 1, kind] and [0, 0] is the model's reading (the presence byte log 13, the codes log 15). -/
def Obligations.ScanOnceOutcome : Prop :=
  ∀ (tag : Byte) (s : State), s.linkReady →
    (∀ o, s.op.slot = some o → exec (.scanOnce tag) s = .next (s.replied tag 0x12 .busy [1, 1, o.kind.code]))
    ∧ (s.op.slot = none → s.scanner.mode = .auto → exec (.scanOnce tag) s = .next (s.replied tag 0x12 .state [0, 0]))
    ∧ (s.op.slot = none → s.scanner.mode = .manual → exec (.scanOnce tag) s = .next ({ s with
        op := { s.op with slot := some .scanOnce }
        scanner := { s.scanner with
          running := if s.scanner.running = none then some ⟨s.scanner.levels, s.time, none⟩ else s.scanner.running } }.replied tag 0x12
            .accepted [1, 1, 2]))

/-! ### Requests that only read -/

/-- The reading requests change nothing but the reply slot: GET_SAMPLE, GET_POSE, GET_WEIGH, GET_TALLY, GET_PERMITS, GET_LINES, PING and
GET_STATUS are replied OK in every state; TABLE_READ, GET_ZONE and GET_DETAIL are refused only for a bad index or a table not VALID. The
results are the items of each owning rule in its order, at the widths of R195. The model's reading where the rules leave bytes open: no
results in a refusal (log 14), presence bytes and the widths that R195 does not list (log 13), codes (log 15), the line speed (log 24), the
one byte of a pose's validity in GET_ZONE (log 30). -/
def Obligations.ReadingRequestsChangeNothing : Prop :=
  (∀ (tag : Byte) (s : State), s.linkReady →
    let channel := fun c : Channel => be 1 c.level.val ++ be 2 c.lower ++ be 2 c.upper
    let scanned := fun x : Scan => (List.finRange 12).flatMap (fun c => split16 x.raw[c] ++ be 2 x.scaled[c] ++ [x.band[c].code])
      ++ [boolByte x.referenced] ++ timeBytes x.time
    exec (.getSample tag) s = .next (s.replied tag 0x13 .ok ([s.scanner.mode.code] ++ be 1 s.scanner.period
      ++ s.scanner.channels.toList.flatMap channel ++ optBytes scanned s.scanner.latest)))
    ∧ (∀ (tag : Byte) (s : State) (cell : CellRef → List Byte), s.linkReady → cell .outOfTable = [0] →
    (∀ row col, cell (.cell row col) = [1] ++ be 1 row.val ++ be 1 col.val) →
    let k := s.pose.crane.getD ⟨0, 0, 0, 0, 0⟩
    let reasons := fun p : Pose => boolByte p.unset ||| (boolByte p.band <<< 1) ||| (boolByte p.unreferenced <<< 2)
    let solved := fun p : Pose => be 2 p.theta ++ be 2 p.slew ++ optBytes (fun x => be 2 x.1.reach) p.position
      ++ optBytes (fun x => be 2 x.1.height) p.position ++ optBytes (fun r => be 2 (Rates.slew r)) p.rates
      ++ optBytes (fun r => be 2 (Rates.boom r)) p.rates ++ [boolByte (!p.valid), reasons p] ++ optBytes (fun x => cell x.2) p.position
      ++ timeBytes p.time
    exec (.getPose tag) s = .next (s.replied tag 0x19 .ok (be 2 k.lb ++ be 2 k.ls ++ be 2 k.h ++ be 2 k.ap ++ be 2 k.ar
      ++ [boolByte s.pose.crane.isSome] ++ optBytes solved s.pose.latest ++ [s.table.state.code])))
    ∧ (∀ (tag : Byte) (s : State) (figures : List Byte), s.linkReady → (s.weigh.context = .absent → figures = [2, 0]) →
    (∀ c, s.weigh.context = .lift c → figures = [0, 1] ++ be 1 c.budget ++ [1] ++ be 1 c.still ++ [1] ++ be 2 c.tolerance ++ be 2 c.motion
      ++ be 2 c.trim ++ be 2 c.tare ++ [1, c.phase.code]) →
    (∀ c, s.weigh.context = .calibration c → figures = [1, 1] ++ be 1 c.budget ++ [0, 0] ++ be 2 c.motion ++ be 2 c.trim ++ be 2 c.tare
      ++ [0]) →
    let p := s.weigh.params
    let w := s.weigh.window
    exec (.getWeigh tag) s = .next (s.replied tag 0x39 .ok (be 1 p.budget ++ be 1 p.still ++ be 2 p.tolerance ++ be 2 p.motion
      ++ be 2 p.grip ++ be 2 p.release ++ be 2 p.regrip ++ be 2 p.trim ++ be 2 p.tare ++ figures ++ [w.state.code]
      ++ optBytes (fun c => [CloseStatus.code c]) w.state.status ++ [boolByte w.missed] ++ w.samples.flatMap (be 3)
      ++ [boolByte s.weigh.overload] ++ optBytes (fun x => be 3 (LatestWeight.weight x) ++ timeBytes x.time) s.weigh.latest)))
    ∧ (∀ (tag : Byte) (s : State), s.linkReady →
    let t := s.tally
    let entry := fun e : SortEntry => be 3 e.bunk ++ be 3 e.loaded ++ be 3 e.unloaded ++ be 3 e.adjusted ++ be 1 e.loadLifts
      ++ be 1 e.unloadLifts
    let row := fun r : PerFn Level => boolByte (r.toList.any (· != .free)) :: r.toList.map Level.code
    let rows := s.permit.rows
    let inactive := fun i : Fin 4 =>
      boolByte (s.permit.aux[i].mode == .interlock && s.permit.aux[i].level != s.permit.aux[i].activeHigh)
    let count := s.zones.summary.bind fun x : Summary => s.scanner.latest.map fun scan : Scan => (x.permitInside, scan.time)
    let line := fun a : AuxLine => [a.mode.code, polarityCode a.activeHigh, lineLevelCode a.level,
      lineStateCode (a.level == a.activeHigh), lineLevelCode a.input] ++ optBytes timeBytes a.lastEdge
    let op := s.op.slot
    let ground := fun r : OpResult => match r with | .done => [0] | .failed x => [1, x.code] | .aborted c => [1, c.code]
    let last := fun r : LastResult => [r.kind.code, r.result.code] ++ ground r.result ++ timeBytes r.time
    exec (.getTally tag) s = .next (s.replied tag 0x44 .ok (t.entries.toList.flatMap entry ++ be 4 t.total ++ be 2 t.loadNumber
      ++ be 4 t.opening ++ be 2 t.nextLift ++ be 2 t.shifts ++ be 2 t.returns ++ be 2 t.unweighed ++ timeBytes t.openTime ++ be 3 t.limit
      ++ [boolByte (t.limit < t.total), sortByte s.tracker.sort]))
    ∧ exec (.getPermits tag) s = .next (s.replied tag 0x58 .ok (s.permit.outputs.toList.map Level.code
      ++ [rows.zone, rows.overload, rows.pose, rows.table, rows.mode, rows.interlock, rows.supervision].flatMap row
      ++ [s.permit.sup.stage.code, inactive 0 ||| (inactive 1 <<< 1) ||| (inactive 2 <<< 2) ||| (inactive 3 <<< 3)]
      ++ optBytes (fun x : Nat × Time => be 1 x.1 ++ timeBytes x.2) count))
    ∧ exec (.getLines tag) s = .next (s.replied tag 0x5A .ok (s.permit.aux.toList.flatMap line))
    ∧ exec (.ping tag) s = .next (s.replied tag 0x72 .ok ([0x4C, 0x12, 1] ++ timeBytes s.time))
    ∧ exec (.getStatus tag) s = .next (s.replied tag 0x73 .ok ([s.link.cause.code] ++ timeBytes s.time ++ be 1 s.link.speed.val
      ++ [boolByte s.link.keep, s.scanner.mode.code, s.table.state.code, s.tracker.state.code, s.weigh.window.state.code]
      ++ optBytes (fun c => [CloseStatus.code c]) s.weigh.window.state.status ++ [s.permit.sup.stage.code, boolByte op.isSome]
      ++ optBytes (fun o => [OpKind.code (Op.kind o)]) op ++ optBytes last s.op.last ++ be 1 s.records.lifts ++ be 1 s.records.loads
      ++ [boolByte (s.records.gap.lifts != 0)] ++ be 1 s.events.queue.length ++ be 2 s.tally.loadNumber ++ [sortByte s.tracker.sort]
      ++ s.permit.outputs.toList.map Level.code)))
    ∧ (∀ (tag index : Byte) (s : State), s.linkReady →
    let cell := fun c : Cell => be 2 c.k ++ be 2 c.e ++ be 2 c.rated
    let zone := fun z : Zone => be 2 z.sectorStart ++ be 2 z.sectorEnd ++ be 2 z.reachMin ++ be 2 z.reachMax ++ be 2 z.heightMin
      ++ be 2 z.heightMax ++ [z.kind.code] ++ optBytes (fun f : BitVec 6 => [f.setWidth 8]) z.kind.fns
    let members := fun x : Summary => [boolByte x.weigh, boolByte x.bunk] ++ x.levels.toList.map Level.code ++ be 1 x.inside
    (s.table.state ≠ .valid → exec (.tableRead tag index) s = .next (s.replied tag 0x23 .state []))
    ∧ (s.table.state = .valid → 16 ≤ index.toNat → exec (.tableRead tag index) s = .next (s.replied tag 0x23 .range []))
    ∧ (∀ (r : Fin 16) (row : Vector Cell 8), s.table.state = .valid → index.toNat = r.val → s.table.rows[r] = some row →
        exec (.tableRead tag index) s = .next (s.replied tag 0x23 .ok (index :: row.toList.flatMap cell)))
    ∧ (16 ≤ index.toNat → exec (.getZone tag index) s = .next (s.replied tag 0x2A .range []))
    ∧ (∀ i : Fin 16, index.toNat = i.val →
        let e := s.zones.entries[i]
        exec (.getZone tag index) s = .next (s.replied tag 0x2A .ok ([index, boolByte e.contents.isSome] ++ optBytes zone e.contents
          ++ [e.result.code, boolByte e.edited] ++ optBytes members s.zones.summary
          ++ optBytes (fun p => boolByte (!Pose.valid p) :: timeBytes p.time) s.pose.latest)))
    ∧ (16 ≤ index.toNat → exec (.getDetail tag index) s = .next (s.replied tag 0x62 .range []))
    ∧ (∀ k : Kind, index.toNat = k.prio.val → exec (.getDetail tag index) s = .next (s.replied tag 0x62 .ok
        ([index, boolByte (s.events.isPending k), boolByte (s.events.isEnabled k)] ++ be 1 (s.events.count k)
          ++ [boolByte (s.events.hasNotice k)] ++ optBytes Detail.bytes (s.events.detail k)))))

/-! ### Pose and geometry table -/

/-- The rates of a pose: the change of slew taken the short way round, lying in −1,799 to 1,800, times 1,000 over P, truncated and held
to 16 bits; P is the value loaded at the previous scan's start, or the holding value after a SCAN_ONCE. The geometry cell: row r covers
θ from 50r − 200 to 50r − 151, column c reach from 1,000c + 2,000 to 1,000c + 2,999; any other pose is out of table. -/
def Obligations.PoseRatesAndCell : Prop :=
  (∀ (crane : Option Crane) (prev : PrevScan) (period : Nat) (scan : Scan),
    0 ≤ scan.scaled[6] → scan.scaled[6] < 3600 → 0 ≤ prev.slew → prev.slew < 3600 →
    ∃ r : Rates, ∃ d : Int, (solvePose crane (some prev) period scan).rates = some r
      ∧ -1799 ≤ d ∧ d ≤ 1800 ∧ (d - (scan.scaled[6] - prev.slew)) % 3600 = 0
      ∧ r.slew = max (-32768) (min 32767 (Int.tdiv (d * 1000) (prev.loaded.getD period)))
      ∧ r.boom = max (-32768) (min 32767
          (Int.tdiv (((solvePose crane (some prev) period scan).theta - prev.theta) * 1000) (prev.loaded.getD period))))
    ∧ (∀ theta reach : Int,
    (∀ (r : Fin 16) (c : Fin 8), cellOf theta reach = .cell r c ↔
      50 * (r.val : Int) - 200 ≤ theta ∧ theta ≤ 50 * (r.val : Int) - 151
        ∧ 1000 * (c.val : Int) + 2000 ≤ reach ∧ reach ≤ 1000 * (c.val : Int) + 2999)
    ∧ (cellOf theta reach = .outOfTable ↔ theta < -200 ∨ 600 ≤ theta ∨ reach < 2000 ∨ 10000 ≤ reach))

/-- A scan completion solves the pose from that scan: θ, reach and height as the expressions of R24 and R25 rounded half up, reasons,
validity, presence of reach, the rates against the previous scan (R26), and the previous values kept. The cosines and sines are those of
log 10, whole numbers scaled by 10^40. -/
def Obligations.ScanCompletionSolvesThePose : Prop :=
  ∀ (raw : Vector (BitVec 16) 12) (run : ScanRun) (s : State),
    s.scanner.running = some run → run.canComplete s.time = true →
    ∃ t pose scan, exec (.scanCompletion raw) s = .next t ∧ t.pose.latest = some pose ∧ t.scanner.latest = some scan
      ∧ pose.time = s.time ∧ pose.slew = scan.scaled[6]
      ∧ (pose.unset = true ↔ s.pose.crane = none) ∧ pose.unreferenced = !scan.referenced
      ∧ (pose.band = true ↔ ∃ c : Fin 12, 3 ≤ c.val ∧ c.val ≤ 8 ∧ scan.band[c] ≠ .inside)
      ∧ (pose.valid = true ↔ pose.unset = false ∧ pose.band = false ∧ pose.unreferenced = false)
      ∧ (let exact := scan.scaled[3] * trigScale + scan.scaled[7] * cosScaled pose.slew + scan.scaled[8] * sinScaled pose.slew
        trigScale * (2 * pose.theta - 1) ≤ 2 * exact ∧ 2 * exact < trigScale * (2 * pose.theta + 1))
      ∧ (pose.slew = 0 → pose.theta = scan.scaled[3] + scan.scaled[7])
      ∧ (pose.slew = 900 → pose.theta = scan.scaled[3] + scan.scaled[8])
      ∧ (∀ (k : Crane) (p : Position) (cell : CellRef), s.pose.crane = some k → pose.position = some (p, cell) →
          let arm : Int := k.ls + scan.scaled[5]
          let raised := pose.theta + scan.scaled[4]
          let across := k.lb * cosScaled pose.theta + arm * cosScaled raised
          let up := k.h * trigScale + k.lb * sinScaled pose.theta + arm * sinScaled raised
          trigScale * (2 * p.reach - 1) ≤ 2 * across ∧ 2 * across < trigScale * (2 * p.reach + 1)
            ∧ trigScale * (2 * p.height - 1) ≤ 2 * up ∧ 2 * up < trigScale * (2 * p.height + 1)
            ∧ cell = cellOf pose.theta p.reach)
      ∧ (pose.position = none ↔ s.pose.crane = none) ∧ (pose.rates = none ↔ s.pose.prev = none)
      ∧ (∀ prev : PrevScan, s.pose.prev = some prev → 0 ≤ prev.slew → prev.slew < 3600 → ∃ (r : Rates) (d : Int), pose.rates = some r
          ∧ -1799 ≤ d ∧ d ≤ 1800 ∧ (d - (pose.slew - prev.slew)) % 3600 = 0
          ∧ (let rate := fun change : Int =>
              max (-32768 : Int) (min 32767 (Int.tdiv (change * 1000) (prev.loaded.getD s.scanner.period)))
            r.slew = rate d ∧ r.boom = rate (pose.theta - prev.theta)))
      ∧ t.pose.prev = some ⟨pose.slew, pose.theta, run.loaded⟩

/-- SET_CRANE: BUSY with an OPEN or SUSPENDED window, RANGE for a constant out of range or Ar not below Ap, else all five written. -/
def Obligations.SetCraneOutcome : Prop :=
  ∀ (tag : Byte) (lb ls h ap ar : BitVec 16) (s : State), s.linkReady →
    let inUse := s.weigh.window.state = .opened ∨ s.weigh.window.state = .suspended
    let good := 1000 ≤ lb.toNat ∧ lb.toNat ≤ 8000 ∧ 1000 ≤ ls.toNat ∧ ls.toNat ≤ 8000 ∧ h.toNat ≤ 4000 ∧ 1 ≤ ap.toNat
      ∧ ap.toNat ≤ 2000 ∧ 1 ≤ ar.toNat ∧ ar.toNat ≤ 2000 ∧ ar.toNat < ap.toNat
    let c : Crane := ⟨lb.toNat, ls.toNat, h.toNat, ap.toNat, ar.toNat⟩
    (inUse → exec (.setCrane tag lb ls h ap ar) s = .next (s.replied tag 0x18 .busy (craneBytes s.pose.crane)))
    ∧ (¬inUse → ¬good → exec (.setCrane tag lb ls h ap ar) s = .next (s.replied tag 0x18 .range (craneBytes s.pose.crane)))
    ∧ (¬inUse → good → exec (.setCrane tag lb ls h ap ar) s =
        .next ({ s with pose := { s.pose with crane := some c } }.replied tag 0x18 .ok (craneBytes (some c))))

/-- TABLE_BEGIN: BUSY with an OPEN or SUSPENDED window or while ZERO or SPAN runs; else every cell is discarded and the table is
LOADING; leaving VALID makes the TABLE source active. -/
def Obligations.TableBeginOutcome : Prop :=
  ∀ (tag : Byte) (s : State), s.linkReady →
    let inUse := s.weigh.window.state = .opened ∨ s.weigh.window.state = .suspended
    let calibrating := ∃ o, s.op.slot = some o ∧ o.kind ≠ .scanOnce
    let rows := { s.permit.rows with table := ⟨.slow, .slow, .slow, .slow, .free, .free⟩ }
    let t := { s with table := ⟨.loading, Vector.replicate 16 none⟩ }
    (inUse ∨ calibrating → exec (.tableBegin tag) s = .next (s.replied tag 0x20 .busy [s.table.state.code]))
    ∧ (¬(inUse ∨ calibrating) → s.table.state ≠ .valid → exec (.tableBegin tag) s = .next (t.replied tag 0x20 .ok [1]))
    ∧ (¬(inUse ∨ calibrating) → s.table.state = .valid → exec (.tableBegin tag) s =
        .next ({ t with permit := { s.permit with rows := rows, outputs := rows.combine } }.replied tag 0x20 .ok [1]))

/-- TABLE_WRITE: STATE outside LOADING, RANGE for a bad row or a cell with k 0, else the row holds the eight cells carried. -/
def Obligations.TableWriteOutcome : Prop :=
  ∀ (tag row : Byte) (cells : List (BitVec 16 × BitVec 16 × BitVec 16)) (s : State), s.linkReady → cells.length = 8 →
    let badCell := ∃ c ∈ cells, c.1 = 0
    let refusal := fun status : Status => exec (.tableWrite tag row cells) s =
      .next (s.replied tag 0x21 status (row :: be 1 s.table.rowCount))
    (s.table.state ≠ .loading → refusal .state)
    ∧ (s.table.state = .loading → 16 ≤ row.toNat ∨ badCell → refusal .range)
    ∧ (∀ r : Fin 16, s.table.state = .loading → row.toNat = r.val → ¬badCell → ∃ written : Vector Cell 8,
        let g := { s.table with rows := s.table.rows.set r (some written) }
        exec (.tableWrite tag row cells) s = .next ({ s with table := g }.replied tag 0x21 .ok (row :: be 1 g.rowCount))
          ∧ ∀ (i : Fin 8) (k e l : BitVec 16), cells[i.val]? = some (k, e, l) → written[i] = ⟨k.toNat, e.toInt, l.toNat⟩)

/-- TABLE_END: STATE outside LOADING; INCOMPLETE, CHECK or VALID in it, with TABLE_INVALID for the first two and the TABLE source
inactive for the last. That the STATE refusal carries no results is the model's reading (log 14). -/
def Obligations.TableEndOutcome : Prop :=
  ∀ (tag : Byte) (check : BitVec 16) (s : State), s.linkReady →
    let rows := { s.permit.rows with table := PerFn.const .free }
    let emptied := { s with table := ⟨.empty, Vector.replicate 16 none⟩ }
    (s.table.state ≠ .loading → exec (.tableEnd tag check) s = .next (s.replied tag 0x22 .state []))
    ∧ (s.table.state = .loading → s.table.rowCount < 16 → exec (.tableEnd tag check) s =
        .next ((emptied.raise (.tableInvalid .incomplete s.table.rowCount check 0 s.time)).replied tag 0x22 .ok [0]))
    ∧ (s.table.state = .loading → 16 ≤ s.table.rowCount → check ≠ crc16 s.table.bytes → exec (.tableEnd tag check) s =
        .next ((emptied.raise (.tableInvalid .check s.table.rowCount check (crc16 s.table.bytes) s.time)).replied tag 0x22 .ok [1]))
    ∧ (s.table.state = .loading → 16 ≤ s.table.rowCount → check = crc16 s.table.bytes → exec (.tableEnd tag check) s =
        .next ({ s with
          table := { s.table with state := .valid }
          permit := { s.permit with rows := rows, outputs := rows.combine } }.replied tag 0x22 .ok [2]))

/-! ### Zones -/

/-- The sector test (R40): offset and width measured clockwise from the sector start; equal ends are the full circle; the slew tested
is the scaled SLEW value of the scan as it stands. -/
def Obligations.SectorTest : Prop :=
  (∀ (z : Zone) (slew : Int), z.sectorStart ≤ 3599 → z.sectorEnd ≤ 3599 → 0 ≤ slew → slew ≤ 3599 →
    let offset : Int := if slew < z.sectorStart then slew - z.sectorStart + 3600 else slew - z.sectorStart
    let width : Int := if z.sectorEnd < z.sectorStart then (z.sectorEnd : Int) - z.sectorStart + 3600
      else (z.sectorEnd : Int) - z.sectorStart
    (inSector z slew = true ↔ z.sectorStart = z.sectorEnd ∨ offset ≤ width))
    ∧ (∀ (crane : Option Crane) (prev : Option PrevScan) (period : Nat) (scan : Scan),
        (solvePose crane prev period scan).slew = scan.scaled[6])
    ∧ ∀ (z : Zone) (slew : Int) (p : Position), z.contains slew p = true → inSector z slew = true

/-- An entry contains the tip when the slew lies in its sector and reach and height within its bounds. A scan completion judges every
entry against its own pose, clears every edited flag, and forms the summary from the entries INSIDE. -/
def Obligations.ScanCompletionJudgesZones : Prop :=
  (∀ (z : Zone) (slew : Int) (p : Position), z.contains slew p = true ↔ inSector z slew = true
      ∧ z.reachMin ≤ p.reach ∧ p.reach ≤ z.reachMax ∧ z.heightMin ≤ p.height ∧ p.height ≤ z.heightMax)
  ∧ ∀ (raw : Vector (BitVec 16) 12) (run : ScanRun) (s : State),
    s.scanner.running = some run → run.canComplete s.time = true →
    ∃ t pose summary, exec (.scanCompletion raw) s = .next t ∧ t.pose.latest = some pose ∧ t.zones.summary = some summary
      ∧ (∀ e : Fin 16, t.zones.entries[e].edited = false
          ∧ (s.zones.entries[e].contents = none ∨ pose.valid = false → t.zones.entries[e].result = .notJudged)
          ∧ ∀ (z : Zone) (p : Position) (c : CellRef), s.zones.entries[e].contents = some z → pose.valid = true →
              pose.position = some (p, c) →
              t.zones.entries[e].result = (if z.contains pose.slew p then .inside else .outside))
      ∧ t.permit.rows.zone = summary.levels
      ∧ (pose.valid = false → summary = ⟨false, false, .const .free, 0, 0⟩)
      ∧ (let inside := fun k : ZoneKind => ∃ (e : Fin 16) (z : Zone),
            t.zones.entries[e].result = .inside ∧ s.zones.entries[e].contents = some z ∧ z.kind = k
        let functions : List (Nat × (PerFn Level → Level)) :=
          [(0, PerFn.slew), (1, PerFn.lift), (2, PerFn.stick), (3, PerFn.extend), (4, PerFn.rotate), (5, PerFn.grapple)]
        (summary.weigh = true ↔ inside .weigh) ∧ (summary.bunk = true ↔ inside .bunk)
          ∧ (∀ f ∈ functions,
              let held := ∃ b : BitVec 6, inside (.hold b) ∧ b.getLsbD f.1 = true
              let slowed := ∃ b : BitVec 6, inside (.slow b) ∧ b.getLsbD f.1 = true
              (held → f.2 summary.levels = .hold) ∧ (¬held → slowed → f.2 summary.levels = .slow)
                ∧ (¬held → ¬slowed → f.2 summary.levels = .free))
          ∧ summary.inside = (List.finRange 16).countP (fun e => t.zones.entries[e].result == .inside)
          ∧ summary.permitInside = (List.finRange 16).countP (fun e => t.zones.entries[e].result == .inside
              && s.zones.entries[e].contents.any fun z => z.kind != .weigh && z.kind != .bunk))

/-- SET_ZONE: RANGE for a bad index or bad contents; else the entry holds the contents carried, with its edited flag set; nothing else
of the zone table changes, the entry's membership result included. CLEAR_ZONE: RANGE for a bad index; an IN USE entry becomes FREE with
its edited flag set, a FREE entry stays as it is. The contents accepted are exactly those that pass checks 2 to 6, kept as carried. The
model's readings: the reply of a bad index is the index alone (log 13), a refused CLEAR_ZONE carries no results (log 14). -/
def Obligations.ZoneRequestsOutcome : Prop :=
  (∀ (tag index : Byte) (a b c d e f : BitVec 16) (kind fns : Byte) (s : State), s.linkReady →
    let cmd := Instr.setZone tag index a b c d e f kind fns
    (16 ≤ index.toNat → exec cmd s = .next (s.replied tag 0x28 .range [index]))
    ∧ ∀ i : Fin 16, index.toNat = i.val →
        (zoneOf a b c d e f kind fns = none →
          exec cmd s = .next (s.replied tag 0x28 .range (index :: entryBytes s.zones.entries[i])))
        ∧ ∀ z, zoneOf a b c d e f kind fns = some z →
            let entry : ZoneEntry := ⟨some z, s.zones.entries[i].result, true⟩
            exec cmd s = .next ({ s with zones := { s.zones with entries := s.zones.entries.set i entry } }.replied tag 0x28 .ok
              (index :: entryBytes entry)))
    ∧ (∀ (tag index : Byte) (s : State), s.linkReady →
    (16 ≤ index.toNat → exec (.clearZone tag index) s = .next (s.replied tag 0x29 .range []))
    ∧ ∀ i : Fin 16, index.toNat = i.val →
        (s.zones.entries[i].contents = none → exec (.clearZone tag index) s = .next (s.replied tag 0x29 .ok [index, 0]))
        ∧ (s.zones.entries[i].contents ≠ none → exec (.clearZone tag index) s =
            .next ({ s with zones := { s.zones with
              entries := s.zones.entries.set i ⟨none, s.zones.entries[i].result, true⟩ } }.replied tag 0x29 .ok [index, 1])))
    ∧ (∀ (a b c d e f : BitVec 16) (kind fns : Byte),
    let inRange := a.toNat ≤ 3599 ∧ b.toNat ≤ 3599 ∧ -19999 ≤ c.toInt ∧ c.toInt ≤ d.toInt ∧ d.toInt ≤ 19999
      ∧ -19999 ≤ e.toInt ∧ e.toInt ≤ f.toInt ∧ f.toInt ≤ 23999
    let zone := fun k : ZoneKind => some (⟨a.toNat, b.toNat, c.toInt, d.toInt, e.toInt, f.toInt, k⟩ : Zone)
    let named := 1 ≤ fns.toNat ∧ fns.toNat ≤ 63
    (inRange → kind = 0 → zoneOf a b c d e f kind fns = zone .weigh)
    ∧ (inRange → kind = 1 → zoneOf a b c d e f kind fns = zone .bunk)
    ∧ (inRange → kind = 2 → named → zoneOf a b c d e f kind fns = zone (.slow (fns.setWidth 6)))
    ∧ (inRange → kind = 3 → named → zoneOf a b c d e f kind fns = zone (.hold (fns.setWidth 6)))
    ∧ (¬inRange ∨ 4 ≤ kind.toNat ∨ (2 ≤ kind.toNat ∧ ¬named) → zoneOf a b c d e f kind fns = none))

/-! ### Lift tracker -/

/-- What a scan completion does to the tracker, by its state and by GRIP_P of that scan: grip, release, regrip, finalization without a
regrip interval, and the end of CALIBRATION; a scan with GRIP_P not IN makes no transition. OVERLOAD_SEEN is set on the lift in progress
when the scan asserts the overload under a lift context. -/
def Obligations.TrackerFollowsGripPressure : Prop :=
  ∀ (raw : Vector (BitVec 16) 12) (run : ScanRun) (s : State),
    s.scanner.running = some run → run.canComplete s.time = true → weighParamsOk s.weigh.params = true →
    ∃ t scan pose, exec (.scanCompletion raw) s = .next t ∧ t.scanner.latest = some scan ∧ t.tracker.sort = s.tracker.sort
      ∧ t.pose.latest = some pose
      ∧ let gripping := scan.band[2] = .inside ∧ (s.weigh.params.grip : Int) ≤ scan.scaled[2]
        let releasing := scan.band[2] = .inside ∧ scan.scaled[2] < s.weigh.params.release
        let place := placeOf (t.zones.summary.any Summary.bunk)
        let release : Release := ⟨place, s.time, (pose.position.map fun p => p.1.reach).getD 0, pose.slew⟩
        let seen := fun l : Lift => l.overloadSeen || (!s.weigh.overload && t.weigh.overload && s.weigh.context.isLift)
        (s.tracker.state = .held → t.tracker.state = .held)
        ∧ (s.tracker.state = .empty → ¬gripping → t.tracker.state = .empty)
        ∧ (s.tracker.state = .empty → gripping → t.tracker.state =
            .gripped ⟨place, s.tracker.sort, s.time, 0, false, false⟩)
        ∧ (s.tracker.state = .calibration → t.tracker.state = (if releasing then .empty else .calibration))
        ∧ (∀ l, s.tracker.state = .gripped l →
            (¬releasing → t.tracker.state = .gripped { l with overloadSeen := seen l })
            ∧ (releasing → s.weigh.params.regrip = 0 → t.tracker.state = .empty ∧ t.weigh.context = .absent
                ∧ t.weigh.window = ⟨.unopened, [], false⟩ ∧ t.weigh.overload = false ∧ s.finalizes t l release s.weigh.result)
            ∧ (releasing → s.weigh.params.regrip ≠ 0 → t.tracker.state =
                .releaseHold l release (s.time + BitVec.ofNat 32 s.weigh.params.regrip)))
        ∧ (∀ l rel e, s.tracker.state = .releaseHold l rel e →
            (¬gripping → t.tracker.state = .releaseHold { l with overloadSeen := seen l } rel e)
            ∧ (gripping → t.tracker.state = .gripped { l with
                regrips := if l.regrips < 255 then l.regrips + 1 else l.regrips
                overloadSeen := seen l }))

/-- The expiry of the regrip timer finalizes the lift: tracker EMPTY, window NONE, no context, overload cleared, the lift applied to the
tally, its record admitted or folded, LIFT_DONE and the events of tally and record queue. At any other moment the command changes nothing
(log 2). -/
def Obligations.RegripExpiryFinalizesTheLift : Prop :=
  ∀ s : State,
    (∀ l rel, s.tracker.state = .releaseHold l rel s.time →
      let rows := { s.permit.rows with overload := PerFn.const .free }
      ∃ t, exec .regripTimerExpiry s = .next t
        ∧ t.tracker = ⟨.empty, s.tracker.sort⟩
        ∧ t.weigh = { s.weigh with context := .absent, window := ⟨.unopened, [], false⟩, overload := false }
        ∧ t.permit = { s.permit with rows := rows, outputs := rows.combine }
        ∧ s.finalizes t l rel s.weigh.result
        ∧ { t with
              tracker := s.tracker, weigh := s.weigh, tally := s.tally, permit := s.permit, records := s.records, events := s.events } = s)
    ∧ ((∀ l rel, s.tracker.state ≠ .releaseHold l rel s.time) → exec .regripTimerExpiry s = .next s)

/-- The direction of a finalized lift (R64): by origin and destination alone. A lift whose grip and last release both had an invalid
pose is a RETURN. -/
def Obligations.LiftDirection : Prop :=
  directionOf .field .bunk = .load ∧ directionOf .bunk .field = .unload ∧ directionOf .bunk .bunk = .shift
    ∧ directionOf .field .field = .returned
    ∧ (∀ (t : Tally) (l : Lift) (rel : Release) (now : Time) (r : WindowResult),
        (liftRecord t l rel now r).direction = directionOf l.origin rel.destination
          ∧ (liftRecord t l rel now r).direction ≠ .adjust)
    ∧ ∀ (raw : Vector (BitVec 16) 12) (s : State), (scanView raw s).pose.valid = false →
        (∀ k, (newLift k (scanView raw s)).origin = .field) ∧ (releaseOf (scanView raw s)).destination = .field

/-- SET_SORT: RANGE for a sort outside 1 to 12 or a value that is neither YES nor NO; else the current sort is written, and with YES the
sort of the lift in progress too. MARK: STATE without a lift in progress; else MARKED is set on the lift. The replies carry what R70 and
R72 list, as they stand after the request, but for MARKED, which is that before it. The presence byte before the grip time of SET_SORT and
the one before the bundle of MARK are the model's reading (log 13). -/
def Obligations.TrackerRequestsOutcome : Prop :=
  (∀ (tag sort apply : Byte) (s : State), s.linkReady →
    let reply := fun (current : Fin 12) (applied : Option Time) =>
      [sortByte current, s.tracker.state.code, boolByte applied.isSome] ++ optBytes timeBytes applied
    (sort.toNat < 1 ∨ 12 < sort.toNat ∨ 1 < apply.toNat →
      exec (.setSort tag sort apply) s = .next (s.replied tag 0x30 .range (reply s.tracker.sort none)))
    ∧ ∀ k : Fin 12, sort.toNat = k.val + 1 →
        (apply = 0 → exec (.setSort tag sort apply) s =
          .next ({ s with tracker := { s.tracker with sort := k } }.replied tag 0x30 .ok (reply k none)))
        ∧ (apply = 1 → exec (.setSort tag sort apply) s = .next ({ s with
            tracker := ⟨s.tracker.state.mapLift (fun l => { l with sort := k }), k⟩ }.replied tag 0x30 .ok
              (reply k (s.tracker.state.lift.map Lift.gripTime)))))
    ∧ (∀ (tag : Byte) (s : State), s.linkReady →
    let marked := fun l : Lift => [1] ++ timeBytes l.gripTime ++ [sortByte l.sort] ++ be 1 l.regrips ++ [boolByte l.marked]
    (s.tracker.state.lift = none → exec (.mark tag) s = .next (s.replied tag 0x31 .state [s.tracker.state.code, 0]))
    ∧ (∀ l, s.tracker.state = .gripped l → exec (.mark tag) s = .next ({ s with
        tracker := { s.tracker with state := .gripped { l with marked := true } } }.replied tag 0x31 .ok (1 :: marked l)))
    ∧ (∀ l rel e, s.tracker.state = .releaseHold l rel e → exec (.mark tag) s = .next ({ s with
        tracker := { s.tracker with state := .releaseHold { l with marked := true } rel e } }.replied tag 0x31 .ok (2 :: marked l))))

/-! ### Weigh unit -/

/-- The weigh window, its context and the scan history over a scan completion. First the weigh unit judges the scan: `u` is the window
then, by the zone step and the table-missed flag (R88 to R90) and the steps after it (R91 to R93), a sample being accepted as R86 says; a
calibration context has neither zone nor stillness step (R100), and a scan that is not judged leaves the window. Then the tracker's report
of the same scan: the latch at a grip (R80), freeze and thaw (R94), the end of the lift or of CALIBRATION (R95, R100), which keeps the
table-missed flag (log 26). Last the scan enters the history (R85). The weight is that of ScanCompletionFormsTheWeight. -/
def Obligations.WindowAtAScanCompletion : Prop :=
  ∀ (raw : Vector (BitVec 16) 12) (run : ScanRun) (s : State),
    s.scanner.running = some run → run.canComplete s.time = true → weighParamsOk s.weigh.params = true →
    ∃ (t : State) (scan : Scan) (pose : Pose) (u : Window), exec (.scanCompletion raw) s = .next t
      ∧ t.scanner.latest = some scan ∧ t.pose.latest = some pose
      ∧ let p := s.weigh.params
        let w := s.weigh.window
        let gripping := scan.band[2] = .inside ∧ (p.grip : Int) ≤ scan.scaled[2]
        let releasing := scan.band[2] = .inside ∧ scan.scaled[2] < p.release
        let holding := scan.band[2] = .inside ∧ (p.release : Int) ≤ scan.scaled[2]
        let valid := s.table.state = .valid
        let inZone := t.zones.summary.any Summary.weigh = true
        let bandFails := scan.band[0] ≠ .inside ∨ scan.band[1] ≠ .inside
        let held := fun e : Option HistoryEntry => ∃ h, e = some h ∧ h.holding = true
        let within := fun (limit : Nat) (change : Int) => -(limit : Int) ≤ change ∧ change ≤ limit
        let accepted := fun (limit : Nat) (x : Int) => scanWeight (scanView raw s) s = some x ∧ holding ∧ held s.weigh.newer
          ∧ held s.weigh.older ∧ ∃ now before h, pose.rates = some now ∧ s.weigh.newer = some h ∧ h.rates = some before
            ∧ within limit (now.slew - before.slew) ∧ within limit (now.boom - before.boom)
        t.weigh.newer = some ⟨decide holding, pose.rates⟩ ∧ t.weigh.older = s.weigh.newer
        ∧ (s.weigh.context = .absent → u = w)
        ∧ (∀ c, s.weigh.context = .lift c →
            let judged := c.phase = .gripped ∧ c.latchScan ≠ s.time ∧ c.thawScan ≠ some s.time ∧ ¬releasing
            (¬judged → u = w)
            ∧ (judged → ∃ z : Window, z.stepsTo bandFails (accepted c.motion) c.budget (some (c.still, c.tolerance)) u
                ∧ (w.state = .unopened → valid → z = { w with state := if inZone then .opened else .unopened })
                ∧ (w.state = .unopened → ¬valid → z = { w with missed := true })
                ∧ (w.state = .opened ∨ w.state = .suspended → z = { w with state := if inZone then .opened else .suspended })
                ∧ (w.state ≠ .unopened → w.state ≠ .opened → w.state ≠ .suspended → z = w)))
        ∧ (∀ c, s.weigh.context = .calibration c → (releasing → u = w)
            ∧ (¬releasing → w.stepsTo bandFails (accepted c.motion) c.budget none u))
        ∧ (let becomes := fun (c : Context) (x : Window) => t.weigh.context = c ∧ t.weigh.window = x
          let unmoved := becomes s.weigh.context u
          (¬gripping → ¬releasing → unmoved) ∧ (s.tracker.state = .held → unmoved)
          ∧ (s.tracker.state = .empty → releasing → unmoved)
          ∧ (s.tracker.state = .empty → gripping → becomes
              (.lift ⟨p.budget, p.still, p.tolerance, p.motion, p.trim, p.tare, .gripped, s.time, none⟩) ⟨.unopened, [], decide ¬valid⟩)
          ∧ (∀ l, s.tracker.state = .gripped l → (gripping → unmoved)
              ∧ (releasing → p.regrip = 0 → becomes .absent ⟨.unopened, [], false⟩)
              ∧ (∀ c, s.weigh.context = .lift c → releasing → p.regrip ≠ 0 → becomes (.lift { c with phase := .released })
                  { u with state := if u.state = .opened ∨ u.state = .suspended then .frozen else u.state }))
          ∧ (∀ l rel e, s.tracker.state = .releaseHold l rel e → (releasing → unmoved)
              ∧ ∀ c, s.weigh.context = .lift c → gripping → becomes (.lift { c with phase := .gripped, thawScan := some s.time })
                  { u with state := if u.state = .frozen then .suspended else u.state })
          ∧ (s.tracker.state = .calibration → (gripping → unmoved)
              ∧ (releasing → becomes .absent ⟨.unopened, [], w.missed⟩)))

/-- SET_WEIGH: BUSY while ZERO or SPAN runs, RANGE for a value out of range, else the nine values are written; a context held keeps
what it latched. WEIGH_FLUSH closes an OPEN, SUSPENDED or FROZEN window of a lift with FLUSHED; WEIGH_DISCARD empties its list and
suspends an OPEN one; both refuse any other window with STATE. The reply of a WEIGH_FLUSH carries what R97 lists; which figures a refused
one carries (log 29) and the presence bytes (log 13) are the model's reading. -/
def Obligations.WeighRequestsOutcome : Prop :=
  (∀ (tag budget still : Byte) (tolerance motion grip release regrip trim tare : BitVec 16) (s : State), s.linkReady →
    let cmd := Instr.setWeigh tag budget still tolerance motion grip release regrip trim tare
    let calibrating := ∃ o, s.op.slot = some o ∧ o.kind ≠ .scanOnce
    let good := 8 ≤ budget.toNat ∧ budget.toNat ≤ 64 ∧ 4 ≤ still.toNat ∧ still.toNat ≤ 16 ∧ still.toNat ≤ budget.toNat
      ∧ 1 ≤ tolerance.toNat ∧ tolerance.toNat ≤ 500 ∧ 1 ≤ motion.toNat ∧ motion.toNat ≤ 2000
      ∧ 100 ≤ grip.toNat ∧ grip.toNat ≤ 39999 ∧ 100 ≤ release.toNat ∧ release.toNat ≤ 39999 ∧ release.toNat < grip.toNat
      ∧ regrip.toNat ≤ 3000 ∧ 800 ≤ trim.toNat ∧ trim.toNat ≤ 1250 ∧ tare.toNat ≤ 2000
    let p : WeighParams :=
      ⟨budget.toNat, still.toNat, tolerance.toNat, motion.toNat, grip.toNat, release.toNat, regrip.toNat, trim.toNat, tare.toNat⟩
    (calibrating → exec cmd s = .next (s.replied tag 0x38 .busy (weighParamBytes s.weigh.params)))
    ∧ (¬calibrating → ¬good → exec cmd s = .next (s.replied tag 0x38 .range (weighParamBytes s.weigh.params)))
    ∧ (¬calibrating → good → exec cmd s =
        .next ({ s with weigh := { s.weigh with params := p } }.replied tag 0x38 .ok (weighParamBytes p))))
  ∧ ∀ (tag : Byte) (s : State), s.linkReady →
    let w := s.weigh.window
    let running := (∃ c, s.weigh.context = .lift c) ∧ (w.state = .opened ∨ w.state = .suspended ∨ w.state = .frozen)
    let taken := be 1 w.samples.length ++ be 2 (spreadGiven w.samples)
    (∀ c, s.weigh.context = .lift c → w.state = .opened ∨ w.state = .suspended ∨ w.state = .frozen →
      exec (.weighFlush tag) s = .next ({ s with
        weigh := { s.weigh with window := { w with state := .closed .flushed } } }.replied tag 0x3A .ok ([w.state.code, 1, 4] ++ taken
          ++ if c.still ≤ w.samples.length then 1 :: be 3 (meanWeight w.samples) else [0])))
    ∧ (∀ c status, s.weigh.context = .lift c → w.state = .closed status →
      let r := s.weigh.result
      exec (.weighFlush tag) s = .next (s.replied tag 0x3A .state ([4, 1, status.code] ++ be 1 r.count ++ be 2 r.spread
        ++ optBytes (fun x : Nat => be 3 x) r.weight)))
    ∧ (¬running → (∀ c status, ¬(s.weigh.context = .lift c ∧ w.state = .closed status)) →
      exec (.weighFlush tag) s = .next (s.replied tag 0x3A .state
        (w.state.code :: optBytes (fun c => [CloseStatus.code c]) w.state.status ++ taken ++ [0])))
    ∧ (running →
        let after : WindowState := if w.state = .frozen then .frozen else .suspended
        exec (.weighDiscard tag) s = .next ({ s with
          weigh := { s.weigh with window := { w with state := after, samples := [] } } }.replied tag 0x3B .ok
            ([w.state.code, after.code] ++ be 1 w.samples.length)))
    ∧ (¬running → exec (.weighDiscard tag) s = .next (s.replied tag 0x3B .state [w.state.code, w.state.code, 0]))

/-- The instantaneous weight of a scan (R81 to R83): trim / 1000 × (k × F / 10^6 − e) rounded half up, less the tare, by what the weigh
unit holds: the latched figures under a lift or a calibration context, the trim in force and no tare with no context while ZERO runs, none
at the grip scan that a lift context names or otherwise. It needs the cell of a valid pose in a VALID table. It is the latest weight; where
the tracker's report of the same scan makes or ends the context, it may be or not: the free choice of log 9. -/
def Obligations.ScanCompletionFormsTheWeight : Prop :=
  ∀ (raw : Vector (BitVec 16) 12) (run : ScanRun) (s : State),
    s.scanner.running = some run → run.canComplete s.time = true →
    ∃ (t : State) (pose : Pose), exec (.scanCompletion raw) s = .next t ∧ t.pose.latest = some pose
      ∧ let v := scanView raw s
        let weight := scanWeight v s
        let formed := fun trim tare : Nat => (v.cell = none → weight = none)
          ∧ ∀ (k : Crane) (cell : Cell) (row : Fin 16) (col : Fin 8), s.pose.crane = some k → v.cell = some (cell, row, col) →
            let force := Int.tdiv (v.scan.scaled[0] * k.ap - v.scan.scaled[1] * k.ar) 10
            let exact := 2 * (trim : Int) * (cell.k * force - cell.e * 1000000)
            ∃ w, weight = some w ∧ 2000000000 * (w + tare) - 1000000000 ≤ exact ∧ exact < 2000000000 * (w + tare) + 1000000000
        t.scanner.latest = some v.scan
        ∧ (∀ (cell : Cell) (row : Fin 16) (col : Fin 8), v.cell = some (cell, row, col) ↔ pose.valid = true ∧ s.table.state = .valid
            ∧ (∃ p, pose.position = some (p, .cell row col)) ∧ ∃ cells, s.table.rows[row] = some cells ∧ cells[col] = cell)
        ∧ (∀ c, s.weigh.context = .lift c → c.latchScan ≠ s.time → formed c.trim c.tare)
        ∧ (∀ c, s.weigh.context = .lift c → c.latchScan = s.time → weight = none)
        ∧ (∀ c, s.weigh.context = .calibration c → formed c.trim c.tare)
        ∧ (∀ count sum skipped, s.weigh.context = .absent → s.op.slot = some (.zero count sum skipped) → formed s.weigh.params.trim 0)
        ∧ (s.weigh.context = .absent → (∀ count sum skipped, s.op.slot ≠ some (.zero count sum skipped)) → weight = none)
        ∧ (weight = none → t.weigh.latest = s.weigh.latest)
        ∧ (∀ w, weight = some w → (t.weigh.latest = some ⟨w, s.time⟩ ∨ t.weigh.latest = s.weigh.latest)
            ∧ ((s.weigh.context = .absent ↔ t.weigh.context = .absent) → t.weigh.latest = some ⟨w, s.time⟩))

/-- A sample that joins an OPEN window closes it STILL when the last S samples lie within the tolerance of their exact mean, else FULL
when the list holds the budget (R92, R93); weight, spread and count as R96 forms them. -/
def Obligations.SampleClosesWindow : Prop :=
  ∀ (v : ScanView) (budget still tolerance : Nat) (x : Int) (w : Window),
    w.state = .opened → liftBandFails v.scan = false → 0 < still →
    let list := w.samples ++ [x]
    let last := list.drop (list.length - still)
    let isStill := still ≤ list.length
      ∧ ∀ y ∈ last, y * still - last.sum ≤ (tolerance : Int) * still ∧ last.sum - y * still ≤ (tolerance : Int) * still
    let t := w.laterSteps v budget (some (still, tolerance)) (some x)
    t.samples = list ∧ t.missed = w.missed
      ∧ (isStill → t.state = .closed .still)
      ∧ (¬isStill → budget ≤ list.length → t.state = .closed .full)
      ∧ (¬isStill → list.length < budget → t.state = .opened)
      ∧ windowResult still .still list = ⟨.still, some (meanWeight last), list.length, spreadGiven last⟩
      ∧ windowResult still .full list = ⟨.full, some (meanWeight list), list.length, spreadGiven list⟩

/-- The window result of a lift (R95, R96): the close status by the window's state and its table-missed flag, the count of samples, the
weight and the spread by the status, S being the stillness count latched. A mean is rounded half up and held at 0, a spread is held at
65,535. RegripExpiryFinalizesTheLift and TrackerFollowsGripPressure say what finalization does with the result. -/
def Obligations.WindowResultAtFinalization : Prop :=
  (∀ l : List Int, l ≠ [] → ∃ mean : Int, meanWeight l = (max 0 mean).toNat
      ∧ 2 * l.length * mean - l.length ≤ 2 * l.sum ∧ 2 * l.sum < 2 * l.length * mean + l.length)
    ∧ spreadGiven [] = 0
    ∧ (∀ (l : List Int) (low high : Int), low ∈ l → high ∈ l → (∀ x ∈ l, low ≤ x ∧ x ≤ high) →
        spreadGiven l = min (high - low).toNat 65535)
    ∧ ∀ (u : Weigh) (c : LiftContext), u.context = .lift c →
      let w := u.window
      let r := u.result
      let last := w.samples.drop (w.samples.length - c.still)
      (w.state = .opened ∨ w.state = .suspended ∨ w.state = .frozen → r.status = .short)
      ∧ (w.state = .unopened → w.missed = true → r.status = .noTable)
      ∧ (w.state = .unopened → w.missed = false → r.status = .never)
      ∧ (∀ held, w.state = .closed held → r.status = held)
      ∧ (r.status = .noTable ∨ r.status = .never → r.weight = none ∧ r.count = 0 ∧ r.spread = 0)
      ∧ (r.status ≠ .noTable → r.status ≠ .never → r.count = w.samples.length)
      ∧ (r.status = .still → r.weight = some (meanWeight last) ∧ r.spread = spreadGiven last)
      ∧ (r.status = .full → r.weight = some (meanWeight w.samples) ∧ r.spread = spreadGiven w.samples)
      ∧ (r.status = .short ∨ r.status = .flushed →
          r.weight = (if c.still ≤ w.samples.length then some (meanWeight w.samples) else none) ∧ r.spread = spreadGiven w.samples)
      ∧ (r.status = .fault → r.weight = none ∧ r.spread = spreadGiven w.samples)

/-- The overload of a held context is asserted above the rated load, not on a releasing scan, and stands until the weight is at or below
95 % of the rated load rounded down; a scan without a weight leaves it; the OVERLOAD row shows it. An assertion is one occurrence of
OVERLOAD with the weight and the rated load compared, the cell and the time; no other scan reports one. -/
def Obligations.OverloadHysteresis : Prop :=
  ∀ (raw : Vector (BitVec 16) 12) (run : ScanRun) (s : State),
    s.scanner.running = some run → run.canComplete s.time = true → s.weigh.context.held = true →
    ∃ t, exec (.scanCompletion raw) s = .next t
      ∧ let v := scanView raw s
        t.permit.rows.overload = (if t.weigh.overload then ⟨.slow, .slow, .hold, .hold, .free, .free⟩ else .const .free)
        ∧ (t.weigh.context = .absent → t.weigh.overload = false)
        ∧ (t.weigh.context ≠ .absent → scanWeight v s = none → t.weigh.overload = s.weigh.overload)
        ∧ (∀ (w : Int) (cell : Cell) (row : Fin 16) (col : Fin 8),
            t.weigh.context ≠ .absent → scanWeight v s = some w → v.cell = some (cell, row, col) →
            (s.weigh.overload = false → t.weigh.overload = true →
                t.events.detail .overload = some (.overload w cell.rated row col s.time)
                  ∧ t.events.count .overload = satInc 255 (s.events.count .overload))
            ∧ (s.weigh.overload = true → (t.weigh.overload = true ↔ (cell.rated : Int) * 95 / 100 < w))
            ∧ (s.weigh.overload = false →
                (t.weigh.overload = true ↔ (cell.rated : Int) < w ∧ v.scan.releasing s.weigh.params = false)))
        ∧ (s.weigh.overload = true ∨ t.weigh.overload = false → t.events.detail .overload = s.events.detail .overload
            ∧ t.events.count .overload = s.events.count .overload)

/-! ### Tally -/

/-- A LOAD lift of weight W (R107). A lift without a weight applies 0, carries no excess, counts as a lift of the sort and as unweighed
(R110). -/
def Obligations.LoadLiftApplies : Prop :=
  ∀ (t : Tally) (sort : Fin 12) (w : Nat),
    t.inRange →
    let e := t.entries[sort]
    let applied := min w (min (99999 - e.bunk) (16777215 - e.loaded))
    let new := (t.apply sort .load (some w)).entries[sort]
    new = { e with bunk := e.bunk + applied, loaded := e.loaded + applied,
                   loadLifts := if e.loadLifts < 255 then e.loadLifts + 1 else 255 }
      ∧ liftApplied e .load (some w) = applied
      ∧ liftExcess e .load (some w) = (if w - applied = 0 then none else some (w - applied))
      ∧ (e.bunk = 99999 → applied = 0 ∧ w - applied = w)
      ∧ (w = 0 → applied = 0 ∧ liftExcess e .load (some w) = none ∧ unweighedLift .load (some w) = false)
      ∧ (t.apply sort .load (some w)).unweighed = t.unweighed ∧ unweighedLift .load (some w) = false
      ∧ (t.apply sort .load none).entries[sort] = { e with loadLifts := if e.loadLifts < 255 then e.loadLifts + 1 else 255 }
      ∧ (t.apply sort .load none).unweighed = (if t.unweighed < 65535 then t.unweighed + 1 else 65535)
      ∧ liftApplied e .load none = 0 ∧ liftExcess e .load none = none ∧ unweighedLift .load none = true
      ∧ ∀ (k : Fin 12) (weight : Option Nat), k ≠ sort → (t.apply sort .load weight).entries[k] = t.entries[k]

/-- An UNLOAD lift of weight W (R108). A lift without a weight applies 0, carries no excess, counts as a lift of the sort and as unweighed
(R110). -/
def Obligations.UnloadLiftApplies : Prop :=
  ∀ (t : Tally) (sort : Fin 12) (w : Nat),
    t.inRange →
    let e := t.entries[sort]
    let applied := min w (min e.bunk (16777215 - e.unloaded))
    let new := (t.apply sort .unload (some w)).entries[sort]
    new = { e with bunk := e.bunk - applied, unloaded := e.unloaded + applied,
                   unloadLifts := if e.unloadLifts < 255 then e.unloadLifts + 1 else 255 }
      ∧ liftApplied e .unload (some w) = -(applied : Int)
      ∧ liftExcess e .unload (some w) = (if w - applied = 0 then none else some (w - applied))
      ∧ (e.bunk < w → e.unloaded + e.bunk ≤ 16777215 → new.bunk = 0)
      ∧ (e.bunk = 0 → applied = 0 ∧ w - applied = w)
      ∧ (t.apply sort .unload (some w)).unweighed = t.unweighed ∧ unweighedLift .unload (some w) = false
      ∧ (t.apply sort .unload none).entries[sort] = { e with unloadLifts := if e.unloadLifts < 255 then e.unloadLifts + 1 else 255 }
      ∧ (t.apply sort .unload none).unweighed = (if t.unweighed < 65535 then t.unweighed + 1 else 65535)
      ∧ liftApplied e .unload none = 0 ∧ liftExcess e .unload none = none ∧ unweighedLift .unload none = true
      ∧ ∀ (k : Fin 12) (weight : Option Nat), k ≠ sort → (t.apply sort .unload weight).entries[k] = t.entries[k]

/-- SHIFT and RETURN lifts apply 0, carry no excess, change no sort entry and are never unweighed; each counts (R109). -/
def Obligations.ShiftAndReturnLiftsApplyNothing : Prop :=
  ∀ (t : Tally) (sort : Fin 12) (weight : Option Nat), t.inRange →
    (t.apply sort .shift weight).entries = t.entries ∧ (t.apply sort .returned weight).entries = t.entries
      ∧ (t.apply sort .shift weight).shifts = (if t.shifts < 65535 then t.shifts + 1 else 65535)
      ∧ (t.apply sort .returned weight).returns = (if t.returns < 65535 then t.returns + 1 else 65535)
      ∧ (t.apply sort .shift weight).returns = t.returns ∧ (t.apply sort .returned weight).shifts = t.shifts
      ∧ (t.apply sort .shift weight).unweighed = t.unweighed ∧ (t.apply sort .returned weight).unweighed = t.unweighed
      ∧ (∀ e, liftApplied e .shift weight = 0 ∧ liftApplied e .returned weight = 0
          ∧ liftExcess e .shift weight = none ∧ liftExcess e .returned weight = none)
      ∧ ∀ (l : Lift) (rel : Release) (now : Time) (r : WindowResult), (liftRecord t l rel now r).weight = r.weight

/-- SET_PAYLOAD: RANGE outside 1 to 99,999, else the limit is written; no event. TALLY_SET: STATE once a lift number has been given, RANGE
for a weight above 99,999, else the twelve bunk weights and the opening total are written. -/
def Obligations.TallyWritesOutcome : Prop :=
  (∀ (tag : Byte) (limit : BitVec 24) (s : State), s.linkReady →
    let good := 1 ≤ limit.toNat ∧ limit.toNat ≤ 99999
    (¬good → exec (.setPayload tag limit) s = .next (s.replied tag 0x40 .range (be 3 s.tally.limit ++ be 4 s.tally.total)))
    ∧ (good → exec (.setPayload tag limit) s = .next ({ s with
        tally := { s.tally with limit := limit.toNat } }.replied tag 0x40 .ok (be 3 limit.toNat ++ be 4 s.tally.total))))
    ∧ (∀ (tag : Byte) (weights : List (BitVec 24)) (s : State), s.linkReady → weights.length = 12 →
    let tooLarge := ∃ w ∈ weights, 99999 < w.toNat
    (1 < s.tally.nextLift → exec (.tallySet tag weights) s = .next (s.replied tag 0x42 .state (tallySetReply s.tally)))
    ∧ (s.tally.nextLift ≤ 1 → tooLarge → exec (.tallySet tag weights) s =
        .next (s.replied tag 0x42 .range (tallySetReply s.tally)))
    ∧ (s.tally.nextLift ≤ 1 → ¬tooLarge → ∃ t, exec (.tallySet tag weights) s =
        .next ({ s with tally := t }.replied tag 0x42 .ok (tallySetReply t))
        ∧ (∀ k : Fin 12, t.entries[k] = { s.tally.entries[k] with bunk := (weights.getD k.val 0).toNat })
        ∧ t.opening = (weights.map BitVec.toNat).sum ∧ t.total = t.opening
        ∧ { t with entries := s.tally.entries, opening := s.tally.opening } = s.tally))

/-- TALLY_ADJUST: RANGE for a bad sort or amount; else the largest part of the amount that the entry can take is applied, the lift
number advances, and an adjustment record (R116) is admitted or folded, with RECORDS_READY where the admission reaches the threshold and
RECORD_GAP at a first fold. No other kind occurs, PAYLOAD_LIMIT included. The model's reading of the reply: that no presence byte stands
for the lift number which a refused one does not carry (log 13), and the code of admitted and folded (log 15). -/
def Obligations.TallyAdjustOutcome : Prop :=
  ∀ (tag sort : Byte) (amount : BitVec 24) (s : State), s.linkReady →
    let a := amount.toInt
    (sort.toNat < 1 ∨ 12 < sort.toNat ∨ 99999 < a.natAbs → exec (.tallyAdjust tag sort amount) s =
      .next (s.replied tag 0x41 .range (sort :: be 2 s.tally.loadNumber)))
    ∧ ∀ k : Fin 12, sort.toNat = k.val + 1 → a.natAbs ≤ 99999 →
        let e := s.tally.entries[k]
        let applied := if 0 < a then min a (min (99999 - (e.bunk : Int)) (8388607 - e.adjusted))
          else if a < 0 then -(min (-a) (min (e.bunk : Int) (e.adjusted + 8388608))) else 0
        ∃ t : State, exec (.tallyAdjust tag sort amount) s = .next (t.replied tag 0x41 .ok (be 2 s.tally.loadNumber
            ++ be 2 s.tally.nextLift ++ be 3 applied ++ be 3 (a.natAbs - applied.natAbs : Nat) ++ be 3 t.tally.entries[k].bunk
            ++ be 4 t.tally.total ++ [boolByte (30 ≤ s.records.lifts)]))
          ∧ t.tally = { s.tally with
              nextLift := if s.tally.nextLift < 65535 then s.tally.nextLift + 1 else s.tally.nextLift
              entries := s.tally.entries.set k { e with bunk := ((e.bunk : Int) + applied).toNat, adjusted := e.adjusted + applied } }
          ∧ (s.records.lifts < 30 → t.records.gap = ⟨0, 0, 0, 0⟩ ∧ t.records.mode = s.records.mode
              ∧ t.records.threshold = s.records.threshold ∧ ∃ r : LiftRecord,
              t.records.records = s.records.records ++ [⟨.lift r, false⟩]
              ∧ r.direction = .adjust ∧ r.sort = k ∧ r.applied = applied ∧ r.loadNumber = s.tally.loadNumber
              ∧ r.liftNumber = s.tally.nextLift ∧ r.gripTime = s.time ∧ r.finalTime = s.time
              ∧ r.excess = (if a.natAbs - applied.natAbs = 0 then none else some (a.natAbs - applied.natAbs))
              ∧ r.marked = false ∧ r.overloadSeen = false ∧ r.unweighed = false ∧ r.weight = none
              ∧ r.regrips = 0 ∧ r.status = none ∧ r.count = 0 ∧ r.spread = 0
              ∧ r.origin = none ∧ r.destination = none ∧ r.reach = 0 ∧ r.slew = 0
              ∧ r.gap = (if s.records.gap.lifts = 0 then none else some s.records.gap))
          ∧ (30 ≤ s.records.lifts → t.records = { s.records with gap := s.records.gap.fold .adjust applied })
          ∧ s.occursIff t (s.records.lifts < 30 ∧ s.records.mode = .polled ∧ s.records.records.length + 1 = s.records.threshold)
              (.recordsReady .threshold (s.records.lifts + 1) s.records.loads s.time)
          ∧ s.occursIff t (30 ≤ s.records.lifts ∧ s.records.gap.lifts = 0)
              (.recordGap s.tally.loadNumber s.tally.nextLift .adjust s.records.lifts s.records.loads s.time)
          ∧ (∀ kind, kind ≠ .recordsReady → kind ≠ .recordGap → s.silent t kind)
          ∧ { t with tally := s.tally, records := s.records, events := s.events } = s

/-- LOAD_CLOSE: RANGE for a mode that is neither CARRY nor CLEAR, FULL with two load records held; else the load record is admitted, with
an entry for each sort that has a bunk weight above 0 or activity in the load, in sort order, the next load begins,
and in POLLED the admission raises RECORDS_READY with cause LOAD. That the RANGE refusal carries no results is the model's reading (log
14). -/
def Obligations.LoadCloseOutcome : Prop :=
  ∀ (tag closeMode : Byte) (s : State), s.linkReady →
    (1 < closeMode.toNat → exec (.loadClose tag closeMode) s = .next (s.replied tag 0x43 .range []))
    ∧ ∀ m : CloseMode, closeMode = m.code →
        (2 ≤ s.records.loads → exec (.loadClose tag closeMode) s =
          .next (s.replied tag 0x43 .full (be 2 s.tally.loadNumber ++ be 1 s.records.loads)))
        ∧ (s.records.loads < 2 → ∃ (t : State) (r : LoadRecord),
            exec (.loadClose tag closeMode) s = .next (t.replied tag 0x43 .ok (be 2 s.tally.loadNumber ++ [closeMode] ++ be 4 s.tally.total
              ++ be 1 r.entries.length ++ be 2 t.tally.loadNumber ++ be 4 t.tally.opening))
            ∧ t.records = { s.records with
                records := s.records.records ++ [⟨.load r, false⟩]
                gap := ⟨0, 0, 0, 0⟩ }
            ∧ r.loadNumber = s.tally.loadNumber ∧ r.mode = m ∧ r.openTime = s.tally.openTime ∧ r.closeTime = s.time
            ∧ r.opening = s.tally.opening ∧ r.final = s.tally.total ∧ r.shifts = s.tally.shifts ∧ r.returns = s.tally.returns
            ∧ r.unweighed = s.tally.unweighed ∧ r.gap = (if s.records.gap.lifts = 0 then none else some s.records.gap)
            ∧ (∀ x ∈ r.entries, x.entry = s.tally.entries[x.sort])
            ∧ (∀ k : Fin 12, let e := s.tally.entries[k]
                (∃ x ∈ r.entries, x.sort = k) ↔ 0 < e.bunk ∨ e.loaded ≠ 0 ∨ e.unloaded ≠ 0 ∨ e.adjusted ≠ 0 ∨ e.loadLifts ≠ 0
                  ∨ e.unloadLifts ≠ 0)
            ∧ r.entries.Pairwise (fun x y => x.sort < y.sort)
            ∧ (∀ k : Fin 12, t.tally.entries[k] = ⟨if m = .carry then s.tally.entries[k].bunk else 0, 0, 0, 0, 0, 0⟩)
            ∧ t.tally.loadNumber = (if s.tally.loadNumber = 65535 then 1 else s.tally.loadNumber + 1)
            ∧ t.tally.opening = (if m = .carry then s.tally.total else 0)
            ∧ t.tally.nextLift = 1 ∧ t.tally.shifts = 0 ∧ t.tally.returns = 0 ∧ t.tally.unweighed = 0
            ∧ t.tally.openTime = s.time ∧ t.tally.limit = s.tally.limit
            ∧ s.occursIff t (s.records.mode = .polled) (.recordsReady .load s.records.lifts (s.records.loads + 1) s.time)
            ∧ (∀ kind, kind ≠ .recordsReady → s.silent t kind)
            ∧ { t with tally := s.tally, records := s.records, events := s.events } = s)

/-! ### Record queue -/

/-- FETCH_RECORDS: RANGE outside 1 to 4, STATE in STREAM; else the reply carries the first unmarked records, as many as asked for and as
fit in 242 bytes with a length byte each, and marks them. Before them stand the number carried, the lift records and the load records held
that are not carried, and whether the gap accumulator is non-empty, one byte each (R199). That the RANGE and STATE refusals carry no results is the model's
reading (log 14). -/
def Obligations.FetchRecordsOutcome : Prop :=
  ∀ (tag number : Byte) (s : State), s.linkReady →
    let asked := 1 ≤ number.toNat ∧ number.toNat ≤ 4
    let unmarked := s.records.records.filter fun h : HeldRecord => !h.marked
    let size := fun n => ((unmarked.take n).map fun h : HeldRecord => 1 + h.record.bytes.length).sum
    (¬asked → exec (.fetchRecords tag number) s = .next (s.replied tag 0x48 .range []))
    ∧ (asked → s.records.mode = .stream → exec (.fetchRecords tag number) s = .next (s.replied tag 0x48 .state []))
    ∧ (asked → s.records.mode = .polled → ∃ n : Nat,
        let carried := unmarked.take n
        let lifts := (carried.filter fun h : HeldRecord => h.record.isLift).length
        exec (.fetchRecords tag number) s =
          .next ({ s with records := { s.records with records := markFirst n s.records.records } }.withReply
            ⟨tag, 0x48, .ok, be 1 n ++ be 1 ((s.records.lifts : Int) - lifts) ++ be 1 ((s.records.loads : Int) - (n - lifts))
              ++ [boolByte (s.records.gap.lifts != 0)]
              ++ carried.flatMap (fun h : HeldRecord => be 1 h.record.bytes.length ++ h.record.bytes), n, .nothing⟩)
        ∧ n ≤ number.toNat ∧ n ≤ unmarked.length ∧ size n ≤ 242
        ∧ (n < number.toNat → n < unmarked.length → 242 < size (n + 1)))

/-- SET_STREAM: RANGE for a bad mode or threshold; else both are written, and RECORDS_READY is raised with cause SETTING when the mode is
POLLED and the threshold is reached or a load record is held. -/
def Obligations.SetStreamOutcome : Prop :=
  ∀ (tag mode threshold : Byte) (s : State), s.linkReady →
    let bad := 1 < mode.toNat ∨ threshold.toNat < 1 ∨ 30 < threshold.toNat
    (bad → exec (.setStream tag mode threshold) s = .next (s.replied tag 0x49 .range (streamReply s.records)))
    ∧ ∀ m : StreamMode, mode = m.code → ¬bad →
        let q := { s.records with mode := m, threshold := threshold.toNat }
        let ready := m = .polled ∧ (threshold.toNat ≤ s.records.records.length ∨ s.records.loads ≠ 0)
        (¬ready → exec (.setStream tag mode threshold) s =
          .next ({ s with records := q }.replied tag 0x49 .ok (streamReply q)))
        ∧ (ready → exec (.setStream tag mode threshold) s =
          .next (({ s with records := q }.raise (.recordsReady .setting q.lifts q.loads s.time)).replied tag 0x49 .ok
            (streamReply q)))

/-- A fold keeps the net amount (loaded plus adjusted minus unloaded) but for the applied amount of the record folded, counts one lift,
and touches only the sum its direction names when that sum has room; without room the sums are netted first. -/
def Obligations.FoldKeepsTheNetAmount : Prop :=
  ∀ (g : Gap) (d : Direction) (applied : Int),
    (d = .load → 0 ≤ applied) → (d = .unload → applied ≤ 0) → (d = .shift ∨ d = .returned → applied = 0) →
    let f := g.fold d applied
    (f.loaded : Int) + f.adjusted - f.unloaded = (g.loaded : Int) + g.adjusted - g.unloaded + applied
      ∧ f.lifts = (if g.lifts < 255 then g.lifts + 1 else g.lifts)
      ∧ (d = .load → g.loaded + applied ≤ 16777215 →
          (f.loaded : Int) = g.loaded + applied ∧ f.unloaded = g.unloaded ∧ f.adjusted = g.adjusted)
      ∧ (d = .unload → g.unloaded - applied ≤ 16777215 →
          (f.unloaded : Int) = g.unloaded - applied ∧ f.loaded = g.loaded ∧ f.adjusted = g.adjusted)
      ∧ (d = .adjust → -8388608 ≤ g.adjusted + applied → g.adjusted + applied ≤ 8388607 →
          f.adjusted = g.adjusted + applied ∧ f.loaded = g.loaded ∧ f.unloaded = g.unloaded)
      ∧ (d = .shift ∨ d = .returned → f.loaded = g.loaded ∧ f.unloaded = g.unloaded ∧ f.adjusted = g.adjusted)
      ∧ (let net : Int := (g.loaded : Int) + g.adjusted - g.unloaded
        (d = .load ∧ 16777215 < g.loaded + applied) ∨ (d = .unload ∧ 16777215 < g.unloaded - applied)
            ∨ (d = .adjust ∧ (g.adjusted + applied < -8388608 ∨ 8388607 < g.adjusted + applied)) →
          (f.loaded : Int) = max net 0 + (if d = .load then applied else 0)
            ∧ (f.unloaded : Int) = max (-net) 0 - (if d = .unload then applied else 0)
            ∧ f.adjusted = (if d = .adjust then applied else 0))

/-! ### Operation unit -/

/-- ZERO, SPAN and OP_ABORT: the checks in order, the start of the operation, and the abort with its OP_DONE and what it leaves alone. The
model's readings: the slot is spelled [1, 1, kind] and [0, 0] (presence byte log 13, codes log 15), and SPAN's acceptance leaves the
table-missed flag as it stands (log 26). The last result in a refused OP_ABORT has one byte for its reason or abort cause behind a
presence byte (log 13), and the OP_DONE of an aborted SCAN_ONCE holds samples 0 (log 16, R141 gives samples for ZERO and SPAN). -/
def Obligations.OperationRequestsOutcome : Prop :=
  ∀ (tag : Byte) (mass : BitVec 16) (s : State), s.linkReady →
    let zeroMay := s.scanner.mode = .auto ∧ s.tracker.state = .empty ∧ s.table.state = .valid
    let massMay := 100 ≤ mass.toNat ∧ mass.toNat ≤ 10000
    let spanMay := (∃ l, s.tracker.state = .gripped l) ∧ s.weigh.window.state = .unopened ∧ s.table.state = .valid
    let ground := fun r : OpResult => match r with | .done => [0] | .failed x => [1, x.code] | .aborted c => [1, c.code]
    let last := fun r : LastResult => [r.kind.code, r.result.code] ++ ground r.result ++ timeBytes r.time
    let calibration : CalContext := ⟨64, s.weigh.params.motion, 1000, s.weigh.params.tare⟩
    (∀ o, s.op.slot = some o → exec (.zero tag) s = .next (s.replied tag 0x50 .busy [1, 1, o.kind.code])
      ∧ exec (.span tag mass) s = .next (s.replied tag 0x51 .busy ([1, 1, o.kind.code] ++ split16 mass)))
    ∧ (s.op.slot = none → ¬zeroMay → exec (.zero tag) s = .next (s.replied tag 0x50 .state [0, 0]))
    ∧ (s.op.slot = none → zeroMay → exec (.zero tag) s = .next ({ s with
        op := { s.op with slot := some (.zero 0 0 0) } }.replied tag 0x50 .accepted [1, 1, 0]))
    ∧ (s.op.slot = none → ¬massMay → exec (.span tag mass) s = .next (s.replied tag 0x51 .range ([0, 0] ++ split16 mass)))
    ∧ (s.op.slot = none → massMay → ¬spanMay →
        exec (.span tag mass) s = .next (s.replied tag 0x51 .state ([0, 0] ++ split16 mass)))
    ∧ (s.op.slot = none → massMay → spanMay → exec (.span tag mass) s = .next ({ s with
        op := { s.op with slot := some (.span mass.toNat) }
        tracker := { s.tracker with state := .calibration }
        weigh := { s.weigh with context := .calibration calibration, window := ⟨.opened, [], s.weigh.window.missed⟩ } }.replied tag 0x51
          .accepted ([1, 1, 1] ++ split16 mass)))
    ∧ (s.op.slot = none → exec (.opAbort tag) s = .next (s.replied tag 0x52 .state (optBytes last s.op.last)))
    ∧ (∀ o, s.op.slot = some o → ∃ t : State, exec (.opAbort tag) s = .next (t.replied tag 0x52 .ok [o.kind.code])
        ∧ s.aborts .request t ∧ (∀ kind, kind ≠ .opDone → s.silent t kind)
        ∧ t.events.mask = s.events.mask ∧ t.events.mode = s.events.mode
        ∧ { t with op := s.op, weigh := s.weigh, scanner := s.scanner, events := s.events } = s)

/-- How the operations end at a scan completion, each end with its OP_DONE (R141): ZERO by a gripping scan, by the eighth skipped scan or
by its thirty-second weight; SPAN by a releasing scan, a pressure band fault or its sixty-fourth sample; SCAN_ONCE by its own scan. An
operation that runs on raises none. The samples 0 in the OP_DONE of a SCAN_ONCE are the model's reading: R141 gives samples for ZERO and
SPAN (log 16). -/
def Obligations.OperationsEndAtAScan : Prop :=
  ∀ (raw : Vector (BitVec 16) 12) (run : ScanRun) (s : State),
    s.scanner.running = some run → run.canComplete s.time = true →
    ∃ t : State, exec (.scanCompletion raw) s = .next t
      ∧ let v := scanView raw s
        let p := s.weigh.params
        let ends := fun (kind : OpKind) (result : OpResult) (value : Option Int) (samples skipped : Nat) (mean : Option Int)
            (mass : Option Nat) => t.op = ⟨none, some ⟨kind, result, s.time⟩⟩ ∧ s.occurred t (.opDone {
              kind := kind, result := result, value := value, samples := samples, skipped := skipped, mean := mean, mass := mass
              time := s.time })
        let runsOn := fun slot : Option Op => t.op = { s.op with slot := slot } ∧ s.silent t .opDone
        (s.op.slot = none → runsOn none)
        ∧ (s.op.slot = some .scanOnce → run.loaded = none → ends .scanOnce .done (some s.time.toNat) 0 0 none none)
        ∧ (s.op.slot = some .scanOnce → run.loaded ≠ none → runsOn (some .scanOnce))
        ∧ (∀ count sum skipped, s.op.slot = some (.zero count sum skipped) →
            (v.scan.gripping p = true → ends .zero (.failed .gripped) none count skipped none none ∧ t.weigh.params = p)
            ∧ (∀ w, v.scan.gripping p = false → v.scan.gripIn = true → scanWeight v s = some w → count < 31 →
                runsOn (some (.zero (count + 1) (sum + w) skipped)) ∧ t.weigh.params = p)
            ∧ (∀ w, v.scan.gripping p = false → v.scan.gripIn = true → scanWeight v s = some w → 31 ≤ count →
                let mean := roundHalfUp (sum + w) 32
                (0 ≤ mean → mean ≤ 2000 → ends .zero .done (some mean) 32 skipped (some mean) none
                  ∧ t.weigh.params = { p with tare := mean.toNat })
                ∧ (mean < 0 ∨ 2000 < mean → ends .zero (.failed .range) (some mean) 32 skipped (some mean) none ∧ t.weigh.params = p))
            ∧ (v.scan.gripping p = false → v.scan.gripIn = false ∨ scanWeight v s = none → skipped < 7 →
                runsOn (some (.zero count sum (skipped + 1))) ∧ t.weigh.params = p)
            ∧ (v.scan.gripping p = false → v.scan.gripIn = false ∨ scanWeight v s = none → 7 ≤ skipped →
                ends .zero (.failed .unreferenced) none count (skipped + 1) none none ∧ t.weigh.params = p))
        ∧ (∀ mass c, s.op.slot = some (.span mass) → s.weigh.context = .calibration c → c.budget = 64 →
            s.weigh.window.state = .opened →
            let taken := s.weigh.window.samples
            (v.scan.releasing p = true →
              ends .span (.failed .released) none taken.length 0 none (some mass) ∧ t.weigh.params = p)
            ∧ (v.scan.releasing p = false → liftBandFails v.scan = true →
              ends .span (.failed .band) none taken.length 0 none (some mass) ∧ t.weigh.params = p)
            ∧ (v.scan.releasing p = false → liftBandFails v.scan = false →
                (acceptedSample s.weigh c.motion v (scanWeight v s) = none → runsOn (some (.span mass)) ∧ t.weigh.params = p)
                ∧ ∀ w, acceptedSample s.weigh c.motion v (scanWeight v s) = some w →
                    (taken.length < 63 → runsOn (some (.span mass)) ∧ t.weigh.params = p)
                    ∧ (63 ≤ taken.length →
                        let sum := (taken ++ [w]).sum
                        let mean := roundHalfUp sum 64
                        let trim := roundHalfUp (1000 * (mass : Int) * 64) sum
                        let full := fun (result : OpResult) (value : Option Int) =>
                          ends .span result value (taken.length + 1) 0 (some mean) (some mass)
                        (0 < sum → 800 ≤ trim → trim ≤ 1250 → full .done (some trim) ∧ t.weigh.params = { p with trim := trim.toNat })
                        ∧ (sum ≤ 0 → full (.failed .range) none ∧ t.weigh.params = p)
                        ∧ (0 < sum → trim < 800 ∨ 1250 < trim → full (.failed .range) (some trim) ∧ t.weigh.params = p))))

/-! ### Permit unit -/

/-- Every output is the most restrictive contribution to its function, FREE when no source contributes. The lines show the outputs,
function by function: the SLOW line is active at SLOW and at HOLD, the HOLD line at HOLD. -/
def Obligations.OutputIsMostRestrictive : Prop :=
  (∀ (c : Contributions) (f : PerFn Level → Level),
      f ∈ [PerFn.slew, PerFn.lift, PerFn.stick, PerFn.extend, PerFn.rotate, PerFn.grapple] →
      (∀ row ∈ [c.zone, c.overload, c.pose, c.table, c.mode, c.interlock, c.supervision],
        (f row).code.toNat ≤ (f c.combine).code.toNat)
      ∧ (f c.combine = .free
          ∨ f c.combine ∈ [f c.zone, f c.overload, f c.pose, f c.table, f c.mode, f c.interlock, f c.supervision]))
    ∧ ∀ p : PermitUnit,
        (p.slowLines.slew = (p.outputs.slew != .free) ∧ p.holdLines.slew = (p.outputs.slew == .hold))
        ∧ (p.slowLines.lift = (p.outputs.lift != .free) ∧ p.holdLines.lift = (p.outputs.lift == .hold))
        ∧ (p.slowLines.stick = (p.outputs.stick != .free) ∧ p.holdLines.stick = (p.outputs.stick == .hold))
        ∧ (p.slowLines.extend = (p.outputs.extend != .free) ∧ p.holdLines.extend = (p.outputs.extend == .hold))
        ∧ (p.slowLines.rotate = (p.outputs.rotate != .free) ∧ p.holdLines.rotate = (p.outputs.rotate == .hold))
        ∧ (p.slowLines.grapple = (p.outputs.grapple != .free) ∧ p.holdLines.grapple = (p.outputs.grapple == .hold))

/-- PERMIT_HOLD (R157): each evaluation of a scan completion (cause SCAN), of an accepted SET_LINES or an edge of an INTERLOCK-mode line
(LINES), and of supervision (SUPERVISION) reports the functions it takes to HOLD in one occurrence, and nothing where it takes none. The
sources in the detail are those that contribute HOLD, bit n for source n. -/
def Obligations.PermitHoldIsReported : Prop :=
  (∀ (c : Contributions) (f : PerFn Level → Level) (n : Fin 7),
      (c.holdSources f).getLsbD n.val = true ↔
        ∃ row, [c.zone, c.overload, c.pose, c.table, c.mode, c.interlock, c.supervision][n.val]? = some row ∧ f row = .hold)
    ∧ (∀ (raw : Vector (BitVec 16) 12) (run : ScanRun) (s : State), s.scanner.running = some run → run.canComplete s.time = true →
        ∃ t, exec (.scanCompletion raw) s = .next t ∧ s.holdReported .scan t)
    ∧ (∀ (tag m0 p0 m1 p1 m2 p2 m3 p3 : Byte) (s : State), s.linkReady → (∀ m ∈ [m0, m1, m2, m3], m.toNat ≤ 3) →
        (∀ p ∈ [p0, p1, p2, p3], p.toNat ≤ 1) →
        ∃ t, exec (.setLines tag m0 p0 m1 p1 m2 p2 m3 p3) s = .next t ∧ s.holdReported .lines t)
    ∧ (∀ (line : Fin 4) (s : State), s.permit.aux[line].mode = .interlock → s.permit.aux[line].debounceDue s.time = true →
        ∃ t, exec (.auxDebounceExpiry line) s = .next t ∧ s.holdReported .lines t)
    ∧ (∀ s : State, s.permit.sup.timerDue s.time = true →
        ∃ t, exec .supervisionTimerExpiry s = .next t ∧ s.holdReported .supervision t)
    ∧ (∀ (tag : Byte) (s : State), s.linkReady → s.permit.sup.stage = .stopped →
        ∃ t, exec (.resume tag) s = .next t ∧ s.holdReported .supervision t)

/-- SET_LINES: RANGE for a bad mode or polarity, else the four modes and polarities are written. AUX_INPUT_CHANGE moves the input alone.
AUX_DEBOUNCE_EXPIRY, once the input has held another level for 20 ms, moves the debounced level and acts by the line's mode; the edges of
all INTERLOCK-mode lines that fall at that moment give one update. The model's choices: an AUX_INPUT_CHANGE to the level the input has
changes nothing (log 22), and so does an expiry that is not due (log 2). -/
def Obligations.AuxLineCommandsOutcome : Prop :=
  ∀ s : State,
    let row := fun t : State =>
      if ∃ i : Fin 4, t.permit.aux[i].mode = .interlock ∧ t.permit.aux[i].level ≠ t.permit.aux[i].activeHigh then
        (⟨.hold, .hold, .hold, .hold, .hold, .slow⟩ : PerFn Level) else .const .free
    (∀ (tag : Byte) (m p : Fin 4 → Byte), s.linkReady →
      let cmd := Instr.setLines tag (m 0) (p 0) (m 1) (p 1) (m 2) (p 2) (m 3) (p 3)
      let bad := ∃ i, 3 < (m i).toNat ∨ 1 < (p i).toNat
      (bad → exec cmd s = .next (s.replied tag 0x59 .range (linesReply s.permit.aux)))
      ∧ (¬bad → ∃ t : State, exec cmd s = .next (t.replied tag 0x59 .ok (linesReply t.permit.aux))
          ∧ (∀ i : Fin 4, t.permit.aux[i].mode.code = m i ∧ polarityCode t.permit.aux[i].activeHigh = p i
              ∧ { t.permit.aux[i] with mode := s.permit.aux[i].mode, activeHigh := s.permit.aux[i].activeHigh } = s.permit.aux[i])
          ∧ t.permit.rows = { s.permit.rows with interlock := row t }
          ∧ t.permit.outputs = t.permit.rows.combine ∧ t.permit.sup = s.permit.sup
          ∧ { t with permit := s.permit, events := s.events } = s))
    ∧ ∀ line : Fin 4,
        let a := s.permit.aux[line]
        let put := fun b : AuxLine => { s with permit := { s.permit with aux := s.permit.aux.set line b } }
        let b : AuxLine := { a with level := a.input, lastEdge := some s.time }
        let dueNow := a.input ≠ a.level ∧ 20 ≤ (s.time - a.since).toNat
        (∀ high, exec (.auxInputChange line high) s =
          .next (if a.input = high then s else put { a with input := high, since := s.time }))
        ∧ (¬dueNow → exec (.auxDebounceExpiry line) s = .next s)
        ∧ (dueNow → a.mode = .off → exec (.auxDebounceExpiry line) s = .next (put b))
        ∧ (dueNow → a.mode = .state → exec (.auxDebounceExpiry line) s =
            .next ((put b).raise (.lineState line a.input (a.input == a.activeHigh) s.time)))
        ∧ (dueNow → a.mode = .mark → exec (.auxDebounceExpiry line) s = .next (if a.input = a.activeHigh then
            { put b with tracker := { s.tracker with state := s.tracker.state.mapLift fun l => { l with marked := true } } }
            else put b))
        ∧ (dueNow → a.mode = .interlock → ∃ t : State, exec (.auxDebounceExpiry line) s = .next t
            ∧ (∀ i : Fin 4, let x := s.permit.aux[i]
                t.permit.aux[i] = if x.mode = .interlock ∧ x.input ≠ x.level ∧ 20 ≤ (s.time - x.since).toNat then
                  { x with level := x.input, lastEdge := some s.time } else x)
            ∧ t.permit.rows = { s.permit.rows with interlock := row t }
            ∧ t.permit.outputs = t.permit.rows.combine ∧ t.permit.sup = s.permit.sup
            ∧ { t with permit := s.permit, events := s.events } = s)

/-- SET_SUPERVISION, RESUME and the expiry of the supervision timer: the stages and their rows, the abort at STOPPED with its OP_DONE, and
the refusals. The model's choices: an expiry that is not due changes nothing (log 2), and the OP_DONE of an aborted SCAN_ONCE holds samples
0, which R141 gives for ZERO and SPAN (log 16). -/
def Obligations.SupervisionCommandsOutcome : Prop :=
  ∀ s : State,
    let sup := s.permit.sup
    (∀ (tag : Byte) (interval : BitVec 16), s.linkReady →
      let n := interval.toNat
      let good := n = 0 ∨ (100 ≤ n ∧ n ≤ 5000 ∧ n % 100 = 0)
      (sup.stage = .stopped → exec (.setSupervision tag interval) s =
        .next (s.replied tag 0x5B .state (be 2 sup.interval ++ [sup.stage.code])))
      ∧ (sup.stage ≠ .stopped → ¬good → exec (.setSupervision tag interval) s =
        .next (s.replied tag 0x5B .range (be 2 sup.interval ++ [sup.stage.code])))
      ∧ (sup.stage ≠ .stopped → good →
          let v : Supervision := if n = 0 then ⟨0, .off, none, sup.lastGood⟩ else ⟨n, .normal, some (s.time + BitVec.ofNat 32 n), sup.lastGood⟩
          ∃ t : State, exec (.setSupervision tag interval) s = .next (t.replied tag 0x5B .ok (be 2 n ++ [v.stage.code]))
            ∧ t.permit.sup = v ∧ t.permit.rows = { s.permit.rows with supervision := .const .free }
            ∧ t.permit.outputs = t.permit.rows.combine ∧ t.permit.aux = s.permit.aux
            ∧ { t with permit := s.permit, events := s.events } = s)
      ∧ (sup.stage ≠ .stopped → exec (.resume tag) s = .next (s.replied tag 0x5C .state [sup.stage.code]))
      ∧ (sup.stage = .stopped → ∃ t : State, exec (.resume tag) s = .next (t.replied tag 0x5C .ok [1])
          ∧ t.permit.sup = { sup with stage := .normal, timer := some (s.time + BitVec.ofNat 32 sup.interval) }
          ∧ t.permit.rows = { s.permit.rows with supervision := .const .free }
          ∧ t.permit.outputs = t.permit.rows.combine ∧ t.permit.aux = s.permit.aux
          ∧ { t with permit := s.permit, events := s.events } = s))
    ∧ (sup.timer ≠ some s.time ∨ sup.stage = .off ∨ sup.stage = .stopped → exec .supervisionTimerExpiry s = .next s)
    ∧ (sup.timer = some s.time → sup.stage = .normal → ∃ t : State, exec .supervisionTimerExpiry s = .next t
        ∧ t.permit.sup = { sup with stage := .warned, timer := some (s.time + BitVec.ofNat 32 sup.interval) }
        ∧ t.permit.rows = { s.permit.rows with supervision := .const .slow }
        ∧ t.permit.outputs = t.permit.rows.combine ∧ t.permit.aux = s.permit.aux
        ∧ t.events.detail .supervisionWarn = some (.supervisionWarn sup.interval sup.lastGood s.time)
        ∧ { t with permit := s.permit, events := s.events } = s)
    ∧ (sup.timer = some s.time → sup.stage = .warned → ∃ t : State, exec .supervisionTimerExpiry s = .next t
        ∧ t.permit.sup = { sup with stage := .stopped, timer := none }
        ∧ t.permit.rows = { s.permit.rows with supervision := ⟨.hold, .hold, .hold, .hold, .hold, .slow⟩ }
        ∧ t.permit.outputs = t.permit.rows.combine ∧ t.permit.aux = s.permit.aux
        ∧ t.events.detail .supervisionStop = some (.supervisionStop sup.interval sup.lastGood (s.op.slot.map Op.kind) s.time)
        ∧ t.op.slot = none ∧ s.aborts .supervision t
        ∧ { t with permit := s.permit, events := s.events, op := s.op, weigh := s.weigh, scanner := s.scanner } = s)

/-! ### Event unit -/

/-- An occurrence reaches the event unit (R169, R170): pending bit, detail record, count. In ITEMIZED its kind, when enabled, takes a free
place of the queue if it has no notice there (R173); in SUMMARY it queues ATTENTION when the flag is armed (R175). After every event that
changes the raised set or the queue the event unit settles. In ITEMIZED the free places go to raised kinds without a notice, the highest
priority first; in SUMMARY an armed flag queues ATTENTION for a raised set, and an empty raised set withdraws an unsent ATTENTION; either
way an empty raised set arms the flag. What settles is settled, and settling again would change nothing. -/
def Obligations.OccurrenceReachesTheEventUnit : Prop :=
  (∀ (d : Detail) (s : State), s.raise d = { s with events := s.events.raise s.sending d })
    ∧ (∀ (d : Detail) (e : EventUnit) (sending : Bool),
    let k := d.kind
    let u := e.raise sending d
    u.detail k = some d ∧ (∀ j, j ≠ k → u.detail j = e.detail j)
      ∧ u.count k = (if e.count k < 255 then e.count k + 1 else e.count k) ∧ (∀ j, j ≠ k → u.count j = e.count j)
      ∧ u.mask = e.mask ∧ u.mode = e.mode
      ∧ (e.mode = .itemized →
          (8 ≤ e.queue.length ∨ ∀ j, e.isPending j = true → e.isEnabled j = true → e.hasNotice j = true) →
          let takesPlace := e.isEnabled k = true ∧ e.hasNotice k = false ∧ e.queue.length < 8
          (∀ j, j ≠ k → u.isPending j = e.isPending j)
            ∧ (takesPlace → u.queue = e.queue ++ [.event k] ∧ u.isPending k = false)
            ∧ (¬takesPlace → u.queue = e.queue ∧ u.isPending k = true))
      ∧ (e.mode = .summary →
          let raised := e.raised ≠ 0 ∨ e.isEnabled k = true
          let joins := raised ∧ e.armed = true ∧ Notice.attention ∉ e.queue
          (∀ j, u.isPending j = (e.isPending j || j == k))
            ∧ (joins → u.queue = e.queue ++ [.attention] ∧ u.armed = false)
            ∧ (raised → ¬joins → u.queue = e.queue ∧ u.armed = e.armed)
            ∧ (¬raised → u.armed = true ∧ u.queue = (if sending then
                e.queue.take 1 ++ (e.queue.drop 1).filter (· != .attention) else e.queue.filter (· != .attention)))))
    ∧ ∀ (e : EventUnit) (sending : Bool),
      (e.settle sending).settled
      ∧ (e.mode = .itemized →
        (∀ k : Kind, e.queue.length < 8 → e.waits k → (∀ j : Kind, j.prio < k.prio → ¬e.waits j) →
            e.settle sending = (({ e with queue := e.queue ++ [.event k] } : EventUnit).clearPending k).settle sending)
          ∧ (8 ≤ e.queue.length ∨ (∀ k, ¬e.waits k) →
              e.settle sending = { e with armed := if e.raised = 0 then true else e.armed }))
      ∧ (e.mode = .summary →
        (e.raised = 0 → e.settle sending = { e with armed := true, queue := (if sending then
            e.queue.take 1 ++ (e.queue.drop 1).filter (· != .attention) else e.queue.filter (· != .attention)) })
          ∧ (e.raised ≠ 0 → e.armed = true → Notice.attention ∉ e.queue →
              e.settle sending = { e with armed := false, queue := e.queue ++ [.attention] })
          ∧ (e.raised ≠ 0 → e.armed = false ∨ Notice.attention ∈ e.queue → e.settle sending = e))

/-- SET_EVENTS and GET_EVENTS: what they write, the report of the raised kinds, and what becomes of the queue. A change of mode drops every
notice that is not being transmitted and sets its kind pending again, entry into SUMMARY arming the flag; without a change the queue stays
(R176). GET_EVENTS reports the raised kinds (R177). Then the event unit `e` settles by the mode and mask in force, as
OccurrenceReachesTheEventUnit says: notices are queued, or an unsent ATTENTION is withdrawn. No occurrence is lost by a change of mode or
mask: a kind that was pending or queued still is. -/
def Obligations.EventRequestsOutcome : Prop :=
  ∀ (tag : Byte) (s : State), s.linkReady →
    let old := s.events
    (∀ (mode : Byte) (mask : BitVec 16),
      (1 < mode.toNat → exec (.setEvents tag mode mask) s =
        .next (s.replied tag 0x60 .range (old.mode.code :: split16 old.mask)))
      ∧ ∀ m : EventMode, mode = m.code → ∃ e : EventUnit, exec (.setEvents tag mode mask) s =
          .next ({ s with events := e.settle s.sending }.replied tag 0x60 .ok (mode :: split16 mask))
          ∧ e.mode = m ∧ e.mask = mask ∧ e.counts = old.counts ∧ e.details = old.details
          ∧ (m = old.mode → e = { old with mask := mask })
          ∧ (m ≠ old.mode →
              let dropped := if s.sending then old.queue.drop 1 else old.queue
              e.queue = (if s.sending then old.queue.take 1 else [])
                ∧ (∀ k, e.isPending k = true ↔ old.isPending k = true ∨ Notice.event k ∈ dropped)
                ∧ e.armed = (if m = .summary then true else old.armed))
          ∧ (let u := e.settle s.sending
            u.mode = m ∧ u.mask = mask ∧ u.counts = old.counts ∧ u.details = old.details
              ∧ ∀ k, old.isPending k = true ∨ old.hasNotice k = true → u.isPending k = true ∨ u.hasNotice k = true))
    ∧ ∃ e : EventUnit, exec (.getEvents tag) s = .next ({ s with events := e.settle s.sending }.replied tag 0x61 .ok
          (old.mode.code :: split16 old.mask ++ split16 old.pending ++ split16 (old.pending &&& old.mask) ++ be 1 old.queue.length))
        ∧ e = { old with pending := old.pending &&& ~~~old.mask, counts := e.counts }
        ∧ (∀ k, e.count k = (if old.isPending k = true ∧ old.isEnabled k = true then 0 else old.count k))
        ∧ (let u := e.settle s.sending
          u = { e with armed := true, queue := u.queue }
            ∧ (old.mode = .itemized → u.queue = old.queue)
            ∧ (old.mode = .summary → u.queue = (if s.sending then
                old.queue.take 1 ++ (old.queue.drop 1).filter (· != .attention) else old.queue.filter (· != .attention)))
            ∧ ∀ k, u.hasNotice k = old.hasNotice k)

/-! ### Link port -/

/-- SET_LINK writes KEEP at once and the line speed at its reply's last byte; RESET leaves the link reset to its reply's last byte; an
unknown request is answered UNKNOWN and a request of a wrong length FORMAT, both without results and without effect. The model's
readings: a refused SET_LINK carries no results (log 14), and the speed is sent as its code (log 24). -/
def Obligations.LinkRequestsOutcome : Prop :=
  ∀ (tag : Byte) (s : State), s.linkReady →
    (∀ speed keep : Byte,
      (4 ≤ speed.toNat ∨ 2 ≤ keep.toNat → exec (.setLink tag speed keep) s = .next (s.replied tag 0x70 .range []))
      ∧ ∀ (v : Fin 4) (b : Bool), speed.toNat = v.val → keep = boolByte b → exec (.setLink tag speed keep) s =
          .next ({ s with link := { s.link with keep := b } }.withReply ⟨tag, 0x70, .ok, [speed, keep], 0, .speed v⟩))
    ∧ exec (.reset tag) s = .next (s.withReply ⟨tag, 0x71, .ok, [], 0, .linkReset⟩)
    ∧ (∀ (code : Byte) (values : List Byte), code.toNat ∉ requestCodes →
        exec (.unknownRequest tag code values) s = .next (s.replied tag code .unknown []))
    ∧ ∀ (code : Byte) (values : List Byte) (n : Nat), requestLength code.toNat = some n → values.length ≠ n →
        takeRequest ⟨tag, code, values⟩ s = s.replied tag code .format []

/-- The receive buffer (section 11.3): a frame offered joins the tail or, with four held, is discarded with OVERFLOW; a link reset empties
the buffer, and power-on leaves it empty. A request command that finds the reply slot and the buffer empty is taken at once: the block
that owns it answers, and the reply with its tag, its code, the status and the results stands in the slot. The model's readings: a
request row is its frame's arrival at the buffer, and a request that waits for an empty slot is taken, from the head, before the new one
joins (log 4). -/
def Obligations.RequestsWaitAndAreTakenInOrder : Prop :=
  (∀ (i : Instr) (f : RequestFrame) (r : Reply) (s : State), requestOf i = some f → s.link.slot = some r →
      (s.link.buffer.length < 4 → exec i s = .next { s with link := { s.link with buffer := s.link.buffer ++ [f] } })
      ∧ (4 ≤ s.link.buffer.length → exec i s = .next (s.raise (.linkFault .overflow s.time))))
    ∧ (∀ (i : Instr) (f g : RequestFrame) (rest : List RequestFrame) (s : State), requestOf i = some f → s.link.slot = none →
        s.link.buffer = g :: rest → exec i s = exec i (takeNext s))
    ∧ (∀ (f : RequestFrame) (rest : List RequestFrame) (s : State), s.link.slot = none → s.link.buffer = f :: rest →
        takeNext s = takeRequest f { s with link := { s.link with buffer := rest } }
          ∧ (takeNext s).link.buffer = rest ∧ (takeNext s).link.slot ≠ none)
    ∧ (∀ (cause : StartCause) (s : State), (linkReset cause s).link.buffer = [])
    ∧ State.reset.link.buffer = []
    ∧ ∀ (i : Instr) (f : RequestFrame) (s : State), requestOf i = some f → i.wf = true → s.linkReady →
      exec i s = .next ((answer i s).state.withReply
        ⟨f.tag, f.code, (answer i s).status, (answer i s).results, (answer i s).carried, (answer i s).after⟩)

/-- What the answers of the blocks leave alone: each piece of state changes only by the requests of its owner. STOPPED is left only by
RESUME, and the load number changes only by LOAD_CLOSE. -/
def Obligations.AnswersKeepWhatTheyDoNotOwn : Prop :=
  ∀ (i : Instr) (f : RequestFrame) (s : State), requestOf i = some f →
    let t := (answer i s).state
    t.time = s.time ∧ t.free = s.free ∧ t.pending = s.pending ∧ { t.link with keep := s.link.keep } = s.link
      ∧ (f.code ≠ 0x70 → t.link = s.link)
      ∧ (f.code ∉ [0x10, 0x11, 0x12, 0x52] → t.scanner = s.scanner)
      ∧ (f.code ≠ 0x18 → t.pose = s.pose)
      ∧ (f.code ∉ [0x20, 0x21, 0x22] → t.table = s.table)
      ∧ (f.code ∉ [0x28, 0x29] → t.zones = s.zones)
      ∧ (f.code ∉ [0x10, 0x30, 0x31, 0x51] → t.tracker = s.tracker)
      ∧ (f.code ∉ [0x38, 0x3A, 0x3B, 0x51, 0x52] → t.weigh = s.weigh)
      ∧ (f.code ∉ [0x12, 0x50, 0x51, 0x52] → t.op = s.op)
      ∧ (f.code ∉ [0x40, 0x41, 0x42, 0x43] → t.tally = s.tally)
      ∧ (f.code ∉ [0x41, 0x43, 0x48, 0x49] → t.records = s.records)
      ∧ (f.code ∉ [0x10, 0x20, 0x22, 0x59, 0x5B, 0x5C] → t.permit = s.permit)
      ∧ (f.code ≠ 0x43 → t.tally.loadNumber = s.tally.loadNumber)
      ∧ (f.code ≠ 0x5C → s.permit.sup.stage = .stopped → t.permit.sup.stage = .stopped)

/-- The bytes of a request's frame, received by a hunting receiver, do what the request command does after the good frame has reached
link supervision. What a good frame does there (R164): in every stage the time of the last good frame is now; in NORMAL and in WARNED the
timer restarts with the interval in force; WARNED goes back to NORMAL, its row is freed and the outputs are evaluated, which reports the
functions taken to HOLD, if any (R157); OFF and STOPPED keep their stage with the timer as it is. -/
def Obligations.ReceivedFrameRunsItsRequest : Prop :=
  (∀ (i : Instr) (f : RequestFrame) (s : State), requestOf i = some f → i.wf = true → s.link.rx = none →
    exec (.frameReceived f.bytes) s = exec i s.goodFrame)
    ∧ ∀ s : State,
      let t := s.goodFrame
      let seen := { s.permit.sup with lastGood := some s.time }
      let restarted := some (s.time + BitVec.ofNat 32 s.permit.sup.interval)
      (s.permit.sup.stage = .off ∨ s.permit.sup.stage = .stopped → t = { s with permit := { s.permit with sup := seen } })
        ∧ (s.permit.sup.stage = .normal → t = { s with permit := { s.permit with sup := { seen with timer := restarted } } })
        ∧ (s.permit.sup.stage = .warned → t.permit.sup = { seen with stage := .normal, timer := restarted }
            ∧ t.permit.rows = { s.permit.rows with supervision := .const .free }
            ∧ t.permit.outputs = t.permit.rows.combine ∧ t.permit.aux = s.permit.aux
            ∧ s.holdReported .supervision t ∧ (∀ kind, kind ≠ .permitHold → s.silent t kind)
            ∧ { t with permit := s.permit, events := s.events } = s)

/-- The receiver (R182, R183) and its faults: a CHECK that does not match, a LEN out of range, a pause of 20 ms within a frame, and a good
frame that is no request. A byte that is no SYNC is dropped by the hunt. After a bad CHECK the hunt resumes at the byte behind that frame's
SYNC, after a LEN out of range at the LEN byte, over the bytes received and those that follow, whatever further SYNC they hold. A frame
that is not whole is held with the time of its last byte, and bytes that arrive at one moment may come in one command or in several. The
model's readings: a FRAME_TIMEOUT with bytes is their arrival, and the 20 ms pass after it on the time counter (log 5); a LEN_OUT_OF_RANGE
while the receiver holds bytes past LEN does nothing (log 5); a FRAME_TIMEOUT that is not due does nothing (log 2). -/
def Obligations.ReceiverFaults : Prop :=
  ∀ s : State,
    let fault := fun (cause : LinkCause) (u : State) => { u with link := { u.link with rx := none } }.raise (.linkFault cause s.time)
    (∀ (len : Byte) (inner check : List Byte), s.link.rx = none → lenInRange len.toNat = true → inner.length = len.toNat →
      check.length = 2 → check ≠ split16 (crc16 (len :: inner)) → syncByte ∉ len :: inner ++ check →
      exec (.frameReceived (syncByte :: len :: inner ++ check)) s = .next (fault .check s))
    ∧ (∀ (len : Byte) (inner : List Byte), s.link.rx = none → lenInRange len.toNat = true → inner.length = len.toNat →
        inner.head? ≠ some kindRequest ∨ len.toNat = 2 →
        exec (.frameReceived (syncByte :: len :: inner ++ split16 (crc16 (len :: inner)))) s = .next (fault .kind s.goodFrame))
    ∧ (∀ (len : Byte) (inner check more : List Byte), s.link.rx = none → lenInRange len.toNat = true → inner.length = len.toNat →
      check.length = 2 → check ≠ split16 (crc16 (len :: inner)) →
      exec (.frameReceived (syncByte :: len :: inner ++ check ++ more)) s =
        exec (.frameReceived (len :: inner ++ check ++ more)) (fault .check s))
    ∧ (∀ (len : Byte) (more : List Byte), s.link.rx = none → lenInRange len.toNat = false →
      exec (.frameReceived (syncByte :: len :: more)) s = exec (.frameReceived (len :: more)) (fault .check s))
    ∧ (∀ (b : Byte) (more : List Byte), s.link.rx = none → b ≠ syncByte →
      exec (.frameReceived (b :: more)) s = exec (.frameReceived more) s)
    ∧ (∀ bytes : List Byte, s.link.rx = none → (∀ len, bytes.head? = some len → lenInRange len.toNat = true ∧ bytes.length < len.toNat + 3) →
      exec (.frameReceived (syncByte :: bytes)) s = .next { s with link := { s.link with rx := some ⟨bytes, s.time⟩ } })
    ∧ (∀ (first second : List Byte) (t : State), exec (.frameReceived first) s = .next t →
      exec (.frameReceived (first ++ second)) s = exec (.frameReceived second) t)
    ∧ (∀ len : Byte, lenInRange len.toNat = false → (∀ p, s.link.rx = some p → p.bytes = []) →
        exec (.lenOutOfRange len) s = .next (fault .check s))
    ∧ (∀ (len : Byte) (p : PartialFrame), s.link.rx = some p → p.bytes ≠ [] → exec (.lenOutOfRange len) s = .next s)
    ∧ (∀ p, s.link.rx = some p → p.lastByte + 20 = s.time → exec (.frameTimeout []) s = .next (fault .timeout s))
    ∧ ((∀ p, s.link.rx = some p → p.lastByte + 20 ≠ s.time) → exec (.frameTimeout []) s = .next s)
    ∧ (∀ bytes, bytes ≠ [] → exec (.frameTimeout bytes) s = exec (.frameReceived bytes) s)
    ∧ ∀ (bytes : List Byte) (t : State) (p : PartialFrame), bytes ≠ [] → exec (.frameReceived bytes) s = .next t → t.link.rx = some p →
        p.lastByte = s.time

/-- A free line: a waiting reply goes first, then the head notice, then a record. At the start of an EVENT notice its kind is reported
(R174): its pending bit is cleared and its count is 0, and nothing else of the event unit changes, which then settles, the notice being in
transmission, as OccurrenceReachesTheEventUnit says. A line that is sending begins nothing. A request that
waits on an empty slot, which no step leaves behind, is taken before the arbiter chooses, so its reply goes: the model's order (log 8). -/
def Obligations.TransmitStartOrder : Prop :=
  ∀ s : State,
    let old := s.events
    let sendOn := fun (u : State) (f : TxFrame) => { u with link := { u.link with tx := some f } }
    let replyFrame := fun r : Reply => (⟨.reply, frameBytes 0x52 r.tag ([r.code, r.status.code] ++ r.results)⟩ : TxFrame)
    (s.link.tx ≠ none → exec .transmitStart s = .next s)
    ∧ (∀ r, s.link.tx = none → s.link.slot = some r → exec .transmitStart s = .next (sendOn s (replyFrame r)))
    ∧ (s.link.tx = none → s.link.slot = none → s.link.buffer = [] →
        (s.events.queue = [] → s.records.offered = none → exec .transmitStart s = .next s)
        ∧ (∀ r, s.events.queue = [] → s.records.offered = some r → exec .transmitStart s = .next (sendOn { s with
            records := { s.records with records := markFirst 1 s.records.records } } ⟨.record, frameBytes 0x54 0 r.bytes⟩))
        ∧ (∀ rest, s.events.queue = .attention :: rest → exec .transmitStart s = .next (sendOn s ⟨.notice,
            frameBytes 0x53 0 ([2] ++ split16 s.events.raised ++ be 1 s.events.queue.length)⟩))
        ∧ (∀ k rest, s.events.queue = .event k :: rest → ∃ e : EventUnit, exec .transmitStart s = .next (sendOn
            { s with events := e.settle true } ⟨.notice, frameBytes 0x53 0 (noticeBody s.events (.event k))⟩)
              ∧ e = { old with pending := e.pending, counts := e.counts }
              ∧ (∀ j, e.isPending j = (old.isPending j && j != k)) ∧ (∀ j, e.count j = if j = k then 0 else old.count j)
              ∧ (let u := e.settle true
                u.count k = 0 ∧ u.isPending k = false ∧ u.details = old.details ∧ u.mask = old.mask)))
    ∧ (∀ f rest, s.link.tx = none → s.link.slot = none → s.link.buffer = f :: rest →
        let u := takeRequest f { s with link := { s.link with buffer := rest } }
        ∃ r, u.link.slot = some r ∧ exec .transmitStart s = .next (sendOn u (replyFrame r)))

/-- The last byte of a frame: its owner acts, the line is free, and the next request is taken in the same step when the slot is empty,
whatever frame ended. Where a notice or a record is offered too, the arbiter may choose before the request is taken or after it (R188):
the first is free (log 8), and the request is taken in the same step either way. A notice that is queued as a notice ends, or by the link
reset after a reply, is in the queue before the arbiter chooses, so that it goes before a record that STREAM offers: the model's choice
between the two orders of R188 (log 31). -/
def Obligations.FrameTransmittedOutcome : Prop :=
  ∀ s : State,
    let free := fun u : State => { u with link := { u.link with tx := none } }
    let gone := fun (u : State) (n : Nat) => { u with records := { u.records with records := u.records.records.drop n } }
    let offered := fun u : State => u.events.queue ≠ [] ∨ u.records.offered ≠ none
    let ends := fun u : State =>
      (u.link.slot ≠ none ∨ u.link.buffer = [] → exec .frameTransmitted s = .next u)
      ∧ ∀ g rest, u.link.slot = none → u.link.buffer = g :: rest →
          (¬offered u → exec .frameTransmitted s = .next (takeRequest g { u with link := { u.link with buffer := rest } }))
          ∧ (offered u →
              let e := { u with link := { u.link with buffer := [] }, free := u.free + 1 }
              ∃ x : State, (x = e ∨ exec .transmitStart e = .next x)
                ∧ exec .frameTransmitted s = .next (takeRequest g { x with link := { x.link with buffer := rest } }))
    (s.link.tx = none → exec .frameTransmitted s = .next s)
    ∧ ∀ f, s.link.tx = some f →
        (f.owner = .record → ends (free (gone s 1)))
        ∧ (f.owner = .notice → ends (free { s with events := { s.events with queue := s.events.queue.drop 1 }.settle false }))
        ∧ (∀ r, f.owner = .reply → s.link.slot = some r →
            let u := { gone s r.carried with link := { s.link with tx := none, slot := none } }
            (r.after = .nothing → ends u)
            ∧ (∀ v, r.after = .speed v → ends { u with link := { u.link with
                speed := v
                rx := if v = s.link.speed then s.link.rx else none } })
            ∧ (r.after = .linkReset → exec .frameTransmitted s = .next (linkReset .request u)
                ∧ (linkReset .request u).link.buffer = []))

/-- Every request spells its own frame: the code and the values of the frame of a well-formed request of the list are read back as that
request, with every operand at every value; the frame's length is the one its code requires. -/
def Obligations.RequestFramesSpellTheirCommands : Prop :=
  ∀ (i : Instr) (f : RequestFrame), requestOf i = some f → i.wf = true → f.code.toNat ∈ requestCodes →
    commandOf f = some i ∧ requestLength f.code.toNat = some f.values.length

/-! ### Invariants of every step -/

/-- Every row of the contribution table shows its source's condition, and the outputs are the most restrictive contributions: every step
keeps this. -/
def Obligations.StepKeepsPermitsInAgreement : Prop :=
  ∀ s t : State, s.permitsAgree → step s = .next t → t.permitsAgree

/-- Every figure of the tally stays in its range and the load balances: every step keeps this, given that a load whose first lift number
has not been given has no amounts. -/
def Obligations.StepKeepsTheTallyBalanced : Prop :=
  ∀ s t : State, s.tally.inRange → s.tally.balances → s.tally.freshWhenUnnumbered → step s = .next t →
    t.tally.inRange ∧ t.tally.balances ∧ t.tally.freshWhenUnnumbered

/-- The record queue stays within 30 lift records and 2 load records with its marks at the head, the notice queue within eight notices of
different kinds and settled (in ITEMIZED full, or with no raised kind that has no notice), no request waits on an empty reply slot,
supervision and the geometry table stay consistent: every step keeps each. -/
def Obligations.StepKeepsTheQueuesInBounds : Prop :=
  ∀ s t : State, step s = .next t →
    (s.records.inBounds → t.records.inBounds) ∧ (s.events.wf = true → t.events.wf = true)
      ∧ (s.events.settled → t.events.settled)
      ∧ (s.link.settled → t.link.settled)
      ∧ (s.permit.sup.consistent → t.permit.sup.consistent) ∧ (s.table.consistent → t.table.consistent)

/-- The crane side stays consistent: mode, budget and period of the scanner, tracker state and context, window and budget, the running
operation and the conditions of its acceptance, the parameters' ranges: every step keeps this. With it every step keeps the scanner on
time: no scan outlives its length, and the scan timer never expires during one (R2, R4), the case that log 3 speaks of. -/
def Obligations.StepKeepsTheCraneSideSafe : Prop :=
  ∀ s t : State, s.craneSafe → step s = .next t → t.craneSafe ∧ (s.scanOnTime → t.scanOnTime)

/-- The invariants hold after power-on. -/
def Obligations.InvariantsHoldAtReset : Prop :=
  let s := State.reset
  s.permitsAgree ∧ s.tally.inRange ∧ s.tally.balances ∧ s.tally.freshWhenUnnumbered ∧ s.records.inBounds ∧ s.events.wf = true
    ∧ s.events.settled ∧ s.link.settled ∧ s.permit.sup.consistent ∧ s.table.consistent ∧ s.craneSafe ∧ s.scanOnTime

end
end

