-- ==== Sys2Proof/Laws/PerInstr.lean ====
section
/-! SUPPORT. Per command: the values of a well-formed request have the length that its code requires (R196), so that the request is
never answered FORMAT; a command that is no request has no frame. -/
namespace Sys2Proof.Laws

open Sys2Proof.Machine

/-- The values of the request frame of a well-formed command have the length its code requires, or the code is not listed. -/
def RequestLength.Statement (i : Instr) : Prop :=
  i.wf = true → ∀ f, requestOf i = some f →
    requestLength f.code.toNat = some f.values.length ∨ requestLength f.code.toNat = none

/-- A 2-byte field has two bytes. -/
@[simp] theorem split16_length (v : BitVec 16) : (split16 v).length = 2 := rfl

/-- A 3-byte field has three bytes. -/
@[simp] theorem split24_length (v : BitVec 24) : (split24 v).length = 3 := rfl

/-- A cell has six bytes. -/
theorem splitCells_length (cells : List (BitVec 16 × BitVec 16 × BitVec 16)) : (splitCells cells).length = 6 * cells.length := by
  induction cells with
  | nil => rfl
  | cons c rest ih =>
    have h : splitCells (c :: rest) = (split16 c.1 ++ split16 c.2.1 ++ split16 c.2.2) ++ splitCells rest := rfl
    rw [h, List.length_append, ih]
    simp
    omega

/-- A weight has three bytes. -/
theorem splitWeights_length (weights : List (BitVec 24)) : (splitWeights weights).length = 3 * weights.length := by
  induction weights with
  | nil => rfl
  | cons w rest ih =>
    have h : splitWeights (w :: rest) = split24 w ++ splitWeights rest := rfl
    rw [h, List.length_append, ih]
    simp
    omega

/-- A code that R196 does not list has no length. -/
theorem requestLength_unlisted : ∀ code : Byte, requestCodes.contains code.toNat = false → requestLength code.toNat = none := by
  decide

theorem RequestLength.powerOn (auxLevels : BitVec 4) : RequestLength.Statement (Instr.powerOn auxLevels) := by
  intro _ f hf
  exact nomatch hf

theorem RequestLength.scanTimerExpiry : RequestLength.Statement (Instr.scanTimerExpiry) := by
  intro _ f hf
  exact nomatch hf

theorem RequestLength.scanCompletion (raw : Vector (BitVec 16) 12) : RequestLength.Statement (Instr.scanCompletion raw) := by
  intro _ f hf
  exact nomatch hf

theorem RequestLength.regripTimerExpiry : RequestLength.Statement (Instr.regripTimerExpiry) := by
  intro _ f hf
  exact nomatch hf

theorem RequestLength.auxInputChange (line : Fin 4) (high : Bool) : RequestLength.Statement (Instr.auxInputChange line high) := by
  intro _ f hf
  exact nomatch hf

theorem RequestLength.auxDebounceExpiry (line : Fin 4) : RequestLength.Statement (Instr.auxDebounceExpiry line) := by
  intro _ f hf
  exact nomatch hf

theorem RequestLength.supervisionTimerExpiry : RequestLength.Statement (Instr.supervisionTimerExpiry) := by
  intro _ f hf
  exact nomatch hf

theorem RequestLength.frameReceived (bytes : List Byte) : RequestLength.Statement (Instr.frameReceived bytes) := by
  intro _ f hf
  exact nomatch hf

theorem RequestLength.frameTimeout (bytes : List Byte) : RequestLength.Statement (Instr.frameTimeout bytes) := by
  intro _ f hf
  exact nomatch hf

theorem RequestLength.lineBreakEnd (heldMs : BitVec 32) : RequestLength.Statement (Instr.lineBreakEnd heldMs) := by
  intro _ f hf
  exact nomatch hf

theorem RequestLength.transmitStart : RequestLength.Statement (Instr.transmitStart) := by
  intro _ f hf
  exact nomatch hf

theorem RequestLength.frameTransmitted : RequestLength.Statement (Instr.frameTransmitted) := by
  intro _ f hf
  exact nomatch hf

theorem RequestLength.unknownRequest (tag code : Byte) (values : List Byte) : RequestLength.Statement
    (Instr.unknownRequest tag code values) := by
  intro hwf f hf
  obtain rfl := Option.some.inj hf
  simp only [Instr.wf, Bool.and_eq_true, Bool.not_eq_true'] at hwf
  exact Or.inr (requestLength_unlisted code hwf.1)

theorem RequestLength.setScan (tag mode period : Byte) : RequestLength.Statement (Instr.setScan tag mode period) := by
  intro _ f hf
  obtain rfl := Option.some.inj hf
  exact Or.inl rfl

theorem RequestLength.setChannel (tag channel level : Byte)
    (lower upper : BitVec 16) : RequestLength.Statement (Instr.setChannel tag channel level lower upper) := by
  intro _ f hf
  obtain rfl := Option.some.inj hf
  exact Or.inl rfl

theorem RequestLength.scanOnce (tag : Byte) : RequestLength.Statement (Instr.scanOnce tag) := by
  intro _ f hf
  obtain rfl := Option.some.inj hf
  exact Or.inl rfl

theorem RequestLength.getSample (tag : Byte) : RequestLength.Statement (Instr.getSample tag) := by
  intro _ f hf
  obtain rfl := Option.some.inj hf
  exact Or.inl rfl

theorem RequestLength.setCrane (tag : Byte) (lb ls h ap ar : BitVec 16) : RequestLength.Statement
    (Instr.setCrane tag lb ls h ap ar) := by
  intro _ f hf
  obtain rfl := Option.some.inj hf
  exact Or.inl rfl

theorem RequestLength.getPose (tag : Byte) : RequestLength.Statement (Instr.getPose tag) := by
  intro _ f hf
  obtain rfl := Option.some.inj hf
  exact Or.inl rfl

theorem RequestLength.tableBegin (tag : Byte) : RequestLength.Statement (Instr.tableBegin tag) := by
  intro _ f hf
  obtain rfl := Option.some.inj hf
  exact Or.inl rfl

theorem RequestLength.tableWrite (tag row : Byte) (cells : List
    (BitVec 16 × BitVec 16 × BitVec 16)) : RequestLength.Statement (Instr.tableWrite tag row cells) := by
  intro hwf f hf
  obtain rfl := Option.some.inj hf
  have h8 : cells.length = 8 := by simpa [Instr.wf] using hwf
  exact Or.inl (by simp [frameTableWrite, requestLength, splitCells_length, h8])

theorem RequestLength.tableEnd (tag : Byte) (check : BitVec 16) : RequestLength.Statement (Instr.tableEnd tag check) := by
  intro _ f hf
  obtain rfl := Option.some.inj hf
  exact Or.inl rfl

theorem RequestLength.tableRead (tag row : Byte) : RequestLength.Statement (Instr.tableRead tag row) := by
  intro _ f hf
  obtain rfl := Option.some.inj hf
  exact Or.inl rfl

theorem RequestLength.setZone (tag index : Byte)
    (sectorStart sectorEnd reachMin reachMax heightMin heightMax : BitVec 16) (kind fns : Byte) : RequestLength.Statement (Instr.setZone tag index sectorStart sectorEnd reachMin reachMax heightMin heightMax kind fns) := by
  intro _ f hf
  obtain rfl := Option.some.inj hf
  exact Or.inl rfl

theorem RequestLength.clearZone (tag index : Byte) : RequestLength.Statement (Instr.clearZone tag index) := by
  intro _ f hf
  obtain rfl := Option.some.inj hf
  exact Or.inl rfl

theorem RequestLength.getZone (tag index : Byte) : RequestLength.Statement (Instr.getZone tag index) := by
  intro _ f hf
  obtain rfl := Option.some.inj hf
  exact Or.inl rfl

theorem RequestLength.setSort (tag sort apply : Byte) : RequestLength.Statement (Instr.setSort tag sort apply) := by
  intro _ f hf
  obtain rfl := Option.some.inj hf
  exact Or.inl rfl

theorem RequestLength.mark (tag : Byte) : RequestLength.Statement (Instr.mark tag) := by
  intro _ f hf
  obtain rfl := Option.some.inj hf
  exact Or.inl rfl

theorem RequestLength.setWeigh (tag budget still : Byte)
    (tolerance motion grip release regrip trim tare : BitVec 16) : RequestLength.Statement (Instr.setWeigh tag budget still tolerance motion grip release regrip trim tare) := by
  intro _ f hf
  obtain rfl := Option.some.inj hf
  exact Or.inl rfl

theorem RequestLength.getWeigh (tag : Byte) : RequestLength.Statement (Instr.getWeigh tag) := by
  intro _ f hf
  obtain rfl := Option.some.inj hf
  exact Or.inl rfl

theorem RequestLength.weighFlush (tag : Byte) : RequestLength.Statement (Instr.weighFlush tag) := by
  intro _ f hf
  obtain rfl := Option.some.inj hf
  exact Or.inl rfl

theorem RequestLength.weighDiscard (tag : Byte) : RequestLength.Statement (Instr.weighDiscard tag) := by
  intro _ f hf
  obtain rfl := Option.some.inj hf
  exact Or.inl rfl

theorem RequestLength.setPayload (tag : Byte) (limit : BitVec 24) : RequestLength.Statement (Instr.setPayload tag limit) := by
  intro _ f hf
  obtain rfl := Option.some.inj hf
  exact Or.inl rfl

theorem RequestLength.tallyAdjust (tag sort : Byte) (amount : BitVec 24) : RequestLength.Statement
    (Instr.tallyAdjust tag sort amount) := by
  intro _ f hf
  obtain rfl := Option.some.inj hf
  exact Or.inl rfl

theorem RequestLength.tallySet (tag : Byte) (weights : List (BitVec 24)) : RequestLength.Statement (Instr.tallySet tag weights) := by
  intro hwf f hf
  obtain rfl := Option.some.inj hf
  have h12 : weights.length = 12 := by simpa [Instr.wf] using hwf
  exact Or.inl (by simp [requestLength, splitWeights_length, h12])

theorem RequestLength.loadClose (tag closeMode : Byte) : RequestLength.Statement (Instr.loadClose tag closeMode) := by
  intro _ f hf
  obtain rfl := Option.some.inj hf
  exact Or.inl rfl

theorem RequestLength.getTally (tag : Byte) : RequestLength.Statement (Instr.getTally tag) := by
  intro _ f hf
  obtain rfl := Option.some.inj hf
  exact Or.inl rfl

theorem RequestLength.fetchRecords (tag number : Byte) : RequestLength.Statement (Instr.fetchRecords tag number) := by
  intro _ f hf
  obtain rfl := Option.some.inj hf
  exact Or.inl rfl

theorem RequestLength.setStream (tag mode threshold : Byte) : RequestLength.Statement (Instr.setStream tag mode threshold) := by
  intro _ f hf
  obtain rfl := Option.some.inj hf
  exact Or.inl rfl

theorem RequestLength.zero (tag : Byte) : RequestLength.Statement (Instr.zero tag) := by
  intro _ f hf
  obtain rfl := Option.some.inj hf
  exact Or.inl rfl

theorem RequestLength.span (tag : Byte) (mass : BitVec 16) : RequestLength.Statement (Instr.span tag mass) := by
  intro _ f hf
  obtain rfl := Option.some.inj hf
  exact Or.inl rfl

theorem RequestLength.opAbort (tag : Byte) : RequestLength.Statement (Instr.opAbort tag) := by
  intro _ f hf
  obtain rfl := Option.some.inj hf
  exact Or.inl rfl

theorem RequestLength.getPermits (tag : Byte) : RequestLength.Statement (Instr.getPermits tag) := by
  intro _ f hf
  obtain rfl := Option.some.inj hf
  exact Or.inl rfl

theorem RequestLength.setLines (tag m0 p0 m1 p1 m2 p2 m3 p3 : Byte) : RequestLength.Statement
    (Instr.setLines tag m0 p0 m1 p1 m2 p2 m3 p3) := by
  intro _ f hf
  obtain rfl := Option.some.inj hf
  exact Or.inl rfl

theorem RequestLength.getLines (tag : Byte) : RequestLength.Statement (Instr.getLines tag) := by
  intro _ f hf
  obtain rfl := Option.some.inj hf
  exact Or.inl rfl

theorem RequestLength.setSupervision (tag : Byte) (interval : BitVec 16) : RequestLength.Statement
    (Instr.setSupervision tag interval) := by
  intro _ f hf
  obtain rfl := Option.some.inj hf
  exact Or.inl rfl

theorem RequestLength.resume (tag : Byte) : RequestLength.Statement (Instr.resume tag) := by
  intro _ f hf
  obtain rfl := Option.some.inj hf
  exact Or.inl rfl

theorem RequestLength.setEvents (tag mode : Byte) (mask : BitVec 16) : RequestLength.Statement (Instr.setEvents tag mode mask) := by
  intro _ f hf
  obtain rfl := Option.some.inj hf
  exact Or.inl rfl

theorem RequestLength.getEvents (tag : Byte) : RequestLength.Statement (Instr.getEvents tag) := by
  intro _ f hf
  obtain rfl := Option.some.inj hf
  exact Or.inl rfl

theorem RequestLength.getDetail (tag kind : Byte) : RequestLength.Statement (Instr.getDetail tag kind) := by
  intro _ f hf
  obtain rfl := Option.some.inj hf
  exact Or.inl rfl

theorem RequestLength.setLink (tag speed keep : Byte) : RequestLength.Statement (Instr.setLink tag speed keep) := by
  intro _ f hf
  obtain rfl := Option.some.inj hf
  exact Or.inl rfl

theorem RequestLength.reset (tag : Byte) : RequestLength.Statement (Instr.reset tag) := by
  intro _ f hf
  obtain rfl := Option.some.inj hf
  exact Or.inl rfl

theorem RequestLength.ping (tag : Byte) : RequestLength.Statement (Instr.ping tag) := by
  intro _ f hf
  obtain rfl := Option.some.inj hf
  exact Or.inl rfl

theorem RequestLength.getStatus (tag : Byte) : RequestLength.Statement (Instr.getStatus tag) := by
  intro _ f hf
  obtain rfl := Option.some.inj hf
  exact Or.inl rfl

theorem RequestLength.lenOutOfRange (len : Byte) : RequestLength.Statement (Instr.lenOutOfRange len) := by
  intro _ f hf
  exact nomatch hf

end Sys2Proof.Laws
end

