-- ==== Sys2Proof/Laws/State.lean ====
section
/-! SUPPORT. What each shared update of the state leaves alone, field by field, and what it sets. A proof cites these and does not
unfold the update. -/
namespace Sys2Proof.Machine.State

/-! `raise` -/

@[simp] theorem raise_time (s : State) (d : Detail) : (s.raise d).time = s.time := rfl
@[simp] theorem raise_scanner (s : State) (d : Detail) : (s.raise d).scanner = s.scanner := rfl
@[simp] theorem raise_pose (s : State) (d : Detail) : (s.raise d).pose = s.pose := rfl
@[simp] theorem raise_table (s : State) (d : Detail) : (s.raise d).table = s.table := rfl
@[simp] theorem raise_zones (s : State) (d : Detail) : (s.raise d).zones = s.zones := rfl
@[simp] theorem raise_tracker (s : State) (d : Detail) : (s.raise d).tracker = s.tracker := rfl
@[simp] theorem raise_weigh (s : State) (d : Detail) : (s.raise d).weigh = s.weigh := rfl
@[simp] theorem raise_op (s : State) (d : Detail) : (s.raise d).op = s.op := rfl
@[simp] theorem raise_tally (s : State) (d : Detail) : (s.raise d).tally = s.tally := rfl
@[simp] theorem raise_records (s : State) (d : Detail) : (s.raise d).records = s.records := rfl
@[simp] theorem raise_permit (s : State) (d : Detail) : (s.raise d).permit = s.permit := rfl
@[simp] theorem raise_link (s : State) (d : Detail) : (s.raise d).link = s.link := rfl
@[simp] theorem raise_free (s : State) (d : Detail) : (s.raise d).free = s.free := rfl
@[simp] theorem raise_pending (s : State) (d : Detail) : (s.raise d).pending = s.pending := rfl

/-! `raiseAll` -/

@[simp] theorem raiseAll_time (s : State) (ds : List Detail) : (s.raiseAll ds).time = s.time := rfl
@[simp] theorem raiseAll_scanner (s : State) (ds : List Detail) : (s.raiseAll ds).scanner = s.scanner := rfl
@[simp] theorem raiseAll_pose (s : State) (ds : List Detail) : (s.raiseAll ds).pose = s.pose := rfl
@[simp] theorem raiseAll_table (s : State) (ds : List Detail) : (s.raiseAll ds).table = s.table := rfl
@[simp] theorem raiseAll_zones (s : State) (ds : List Detail) : (s.raiseAll ds).zones = s.zones := rfl
@[simp] theorem raiseAll_tracker (s : State) (ds : List Detail) : (s.raiseAll ds).tracker = s.tracker := rfl
@[simp] theorem raiseAll_weigh (s : State) (ds : List Detail) : (s.raiseAll ds).weigh = s.weigh := rfl
@[simp] theorem raiseAll_op (s : State) (ds : List Detail) : (s.raiseAll ds).op = s.op := rfl
@[simp] theorem raiseAll_tally (s : State) (ds : List Detail) : (s.raiseAll ds).tally = s.tally := rfl
@[simp] theorem raiseAll_records (s : State) (ds : List Detail) : (s.raiseAll ds).records = s.records := rfl
@[simp] theorem raiseAll_permit (s : State) (ds : List Detail) : (s.raiseAll ds).permit = s.permit := rfl
@[simp] theorem raiseAll_link (s : State) (ds : List Detail) : (s.raiseAll ds).link = s.link := rfl
@[simp] theorem raiseAll_free (s : State) (ds : List Detail) : (s.raiseAll ds).free = s.free := rfl
@[simp] theorem raiseAll_pending (s : State) (ds : List Detail) : (s.raiseAll ds).pending = s.pending := rfl

/-! `evaluate` -/

@[simp] theorem evaluate_time (s : State) (c : HoldCause) : (s.evaluate c).time = s.time := rfl
@[simp] theorem evaluate_scanner (s : State) (c : HoldCause) : (s.evaluate c).scanner = s.scanner := rfl
@[simp] theorem evaluate_pose (s : State) (c : HoldCause) : (s.evaluate c).pose = s.pose := rfl
@[simp] theorem evaluate_table (s : State) (c : HoldCause) : (s.evaluate c).table = s.table := rfl
@[simp] theorem evaluate_zones (s : State) (c : HoldCause) : (s.evaluate c).zones = s.zones := rfl
@[simp] theorem evaluate_tracker (s : State) (c : HoldCause) : (s.evaluate c).tracker = s.tracker := rfl
@[simp] theorem evaluate_weigh (s : State) (c : HoldCause) : (s.evaluate c).weigh = s.weigh := rfl
@[simp] theorem evaluate_op (s : State) (c : HoldCause) : (s.evaluate c).op = s.op := rfl
@[simp] theorem evaluate_tally (s : State) (c : HoldCause) : (s.evaluate c).tally = s.tally := rfl
@[simp] theorem evaluate_records (s : State) (c : HoldCause) : (s.evaluate c).records = s.records := rfl
@[simp] theorem evaluate_link (s : State) (c : HoldCause) : (s.evaluate c).link = s.link := rfl
@[simp] theorem evaluate_free (s : State) (c : HoldCause) : (s.evaluate c).free = s.free := rfl
@[simp] theorem evaluate_pending (s : State) (c : HoldCause) : (s.evaluate c).pending = s.pending := rfl

/-! `evaluateQuiet` -/

@[simp] theorem evaluateQuiet_time (s : State) : (s.evaluateQuiet).time = s.time := rfl
@[simp] theorem evaluateQuiet_scanner (s : State) : (s.evaluateQuiet).scanner = s.scanner := rfl
@[simp] theorem evaluateQuiet_pose (s : State) : (s.evaluateQuiet).pose = s.pose := rfl
@[simp] theorem evaluateQuiet_table (s : State) : (s.evaluateQuiet).table = s.table := rfl
@[simp] theorem evaluateQuiet_zones (s : State) : (s.evaluateQuiet).zones = s.zones := rfl
@[simp] theorem evaluateQuiet_tracker (s : State) : (s.evaluateQuiet).tracker = s.tracker := rfl
@[simp] theorem evaluateQuiet_weigh (s : State) : (s.evaluateQuiet).weigh = s.weigh := rfl
@[simp] theorem evaluateQuiet_op (s : State) : (s.evaluateQuiet).op = s.op := rfl
@[simp] theorem evaluateQuiet_tally (s : State) : (s.evaluateQuiet).tally = s.tally := rfl
@[simp] theorem evaluateQuiet_records (s : State) : (s.evaluateQuiet).records = s.records := rfl
@[simp] theorem evaluateQuiet_events (s : State) : (s.evaluateQuiet).events = s.events := rfl
@[simp] theorem evaluateQuiet_link (s : State) : (s.evaluateQuiet).link = s.link := rfl
@[simp] theorem evaluateQuiet_free (s : State) : (s.evaluateQuiet).free = s.free := rfl
@[simp] theorem evaluateQuiet_pending (s : State) : (s.evaluateQuiet).pending = s.pending := rfl

/-! `setModeRow` -/

@[simp] theorem setModeRow_time (s : State) (b : Bool) : (s.setModeRow b).time = s.time := rfl
@[simp] theorem setModeRow_scanner (s : State) (b : Bool) : (s.setModeRow b).scanner = s.scanner := rfl
@[simp] theorem setModeRow_pose (s : State) (b : Bool) : (s.setModeRow b).pose = s.pose := rfl
@[simp] theorem setModeRow_table (s : State) (b : Bool) : (s.setModeRow b).table = s.table := rfl
@[simp] theorem setModeRow_zones (s : State) (b : Bool) : (s.setModeRow b).zones = s.zones := rfl
@[simp] theorem setModeRow_tracker (s : State) (b : Bool) : (s.setModeRow b).tracker = s.tracker := rfl
@[simp] theorem setModeRow_weigh (s : State) (b : Bool) : (s.setModeRow b).weigh = s.weigh := rfl
@[simp] theorem setModeRow_op (s : State) (b : Bool) : (s.setModeRow b).op = s.op := rfl
@[simp] theorem setModeRow_tally (s : State) (b : Bool) : (s.setModeRow b).tally = s.tally := rfl
@[simp] theorem setModeRow_records (s : State) (b : Bool) : (s.setModeRow b).records = s.records := rfl
@[simp] theorem setModeRow_events (s : State) (b : Bool) : (s.setModeRow b).events = s.events := rfl
@[simp] theorem setModeRow_link (s : State) (b : Bool) : (s.setModeRow b).link = s.link := rfl
@[simp] theorem setModeRow_free (s : State) (b : Bool) : (s.setModeRow b).free = s.free := rfl
@[simp] theorem setModeRow_pending (s : State) (b : Bool) : (s.setModeRow b).pending = s.pending := rfl

/-! `setTableRow` -/

@[simp] theorem setTableRow_time (s : State) (b : Bool) : (s.setTableRow b).time = s.time := rfl
@[simp] theorem setTableRow_scanner (s : State) (b : Bool) : (s.setTableRow b).scanner = s.scanner := rfl
@[simp] theorem setTableRow_pose (s : State) (b : Bool) : (s.setTableRow b).pose = s.pose := rfl
@[simp] theorem setTableRow_table (s : State) (b : Bool) : (s.setTableRow b).table = s.table := rfl
@[simp] theorem setTableRow_zones (s : State) (b : Bool) : (s.setTableRow b).zones = s.zones := rfl
@[simp] theorem setTableRow_tracker (s : State) (b : Bool) : (s.setTableRow b).tracker = s.tracker := rfl
@[simp] theorem setTableRow_weigh (s : State) (b : Bool) : (s.setTableRow b).weigh = s.weigh := rfl
@[simp] theorem setTableRow_op (s : State) (b : Bool) : (s.setTableRow b).op = s.op := rfl
@[simp] theorem setTableRow_tally (s : State) (b : Bool) : (s.setTableRow b).tally = s.tally := rfl
@[simp] theorem setTableRow_records (s : State) (b : Bool) : (s.setTableRow b).records = s.records := rfl
@[simp] theorem setTableRow_events (s : State) (b : Bool) : (s.setTableRow b).events = s.events := rfl
@[simp] theorem setTableRow_link (s : State) (b : Bool) : (s.setTableRow b).link = s.link := rfl
@[simp] theorem setTableRow_free (s : State) (b : Bool) : (s.setTableRow b).free = s.free := rfl
@[simp] theorem setTableRow_pending (s : State) (b : Bool) : (s.setTableRow b).pending = s.pending := rfl

/-! `clearOverloadRow` -/

@[simp] theorem clearOverloadRow_time (s : State) : (s.clearOverloadRow).time = s.time := rfl
@[simp] theorem clearOverloadRow_scanner (s : State) : (s.clearOverloadRow).scanner = s.scanner := rfl
@[simp] theorem clearOverloadRow_pose (s : State) : (s.clearOverloadRow).pose = s.pose := rfl
@[simp] theorem clearOverloadRow_table (s : State) : (s.clearOverloadRow).table = s.table := rfl
@[simp] theorem clearOverloadRow_zones (s : State) : (s.clearOverloadRow).zones = s.zones := rfl
@[simp] theorem clearOverloadRow_tracker (s : State) : (s.clearOverloadRow).tracker = s.tracker := rfl
@[simp] theorem clearOverloadRow_weigh (s : State) : (s.clearOverloadRow).weigh = s.weigh := rfl
@[simp] theorem clearOverloadRow_op (s : State) : (s.clearOverloadRow).op = s.op := rfl
@[simp] theorem clearOverloadRow_tally (s : State) : (s.clearOverloadRow).tally = s.tally := rfl
@[simp] theorem clearOverloadRow_records (s : State) : (s.clearOverloadRow).records = s.records := rfl
@[simp] theorem clearOverloadRow_events (s : State) : (s.clearOverloadRow).events = s.events := rfl
@[simp] theorem clearOverloadRow_link (s : State) : (s.clearOverloadRow).link = s.link := rfl
@[simp] theorem clearOverloadRow_free (s : State) : (s.clearOverloadRow).free = s.free := rfl
@[simp] theorem clearOverloadRow_pending (s : State) : (s.clearOverloadRow).pending = s.pending := rfl

/-! `setSupervision` -/

@[simp] theorem setSupervision_time (s : State) (v : Supervision) : (s.setSupervision v).time = s.time := rfl
@[simp] theorem setSupervision_scanner (s : State) (v : Supervision) : (s.setSupervision v).scanner = s.scanner := rfl
@[simp] theorem setSupervision_pose (s : State) (v : Supervision) : (s.setSupervision v).pose = s.pose := rfl
@[simp] theorem setSupervision_table (s : State) (v : Supervision) : (s.setSupervision v).table = s.table := rfl
@[simp] theorem setSupervision_zones (s : State) (v : Supervision) : (s.setSupervision v).zones = s.zones := rfl
@[simp] theorem setSupervision_tracker (s : State) (v : Supervision) : (s.setSupervision v).tracker = s.tracker := rfl
@[simp] theorem setSupervision_weigh (s : State) (v : Supervision) : (s.setSupervision v).weigh = s.weigh := rfl
@[simp] theorem setSupervision_op (s : State) (v : Supervision) : (s.setSupervision v).op = s.op := rfl
@[simp] theorem setSupervision_tally (s : State) (v : Supervision) : (s.setSupervision v).tally = s.tally := rfl
@[simp] theorem setSupervision_records (s : State) (v : Supervision) : (s.setSupervision v).records = s.records := rfl
@[simp] theorem setSupervision_link (s : State) (v : Supervision) : (s.setSupervision v).link = s.link := rfl
@[simp] theorem setSupervision_free (s : State) (v : Supervision) : (s.setSupervision v).free = s.free := rfl
@[simp] theorem setSupervision_pending (s : State) (v : Supervision) : (s.setSupervision v).pending = s.pending := rfl

/-! `refreshInterlock` -/

@[simp] theorem refreshInterlock_time (s : State) : (s.refreshInterlock).time = s.time := rfl
@[simp] theorem refreshInterlock_scanner (s : State) : (s.refreshInterlock).scanner = s.scanner := rfl
@[simp] theorem refreshInterlock_pose (s : State) : (s.refreshInterlock).pose = s.pose := rfl
@[simp] theorem refreshInterlock_table (s : State) : (s.refreshInterlock).table = s.table := rfl
@[simp] theorem refreshInterlock_zones (s : State) : (s.refreshInterlock).zones = s.zones := rfl
@[simp] theorem refreshInterlock_tracker (s : State) : (s.refreshInterlock).tracker = s.tracker := rfl
@[simp] theorem refreshInterlock_weigh (s : State) : (s.refreshInterlock).weigh = s.weigh := rfl
@[simp] theorem refreshInterlock_op (s : State) : (s.refreshInterlock).op = s.op := rfl
@[simp] theorem refreshInterlock_tally (s : State) : (s.refreshInterlock).tally = s.tally := rfl
@[simp] theorem refreshInterlock_records (s : State) : (s.refreshInterlock).records = s.records := rfl
@[simp] theorem refreshInterlock_link (s : State) : (s.refreshInterlock).link = s.link := rfl
@[simp] theorem refreshInterlock_free (s : State) : (s.refreshInterlock).free = s.free := rfl
@[simp] theorem refreshInterlock_pending (s : State) : (s.refreshInterlock).pending = s.pending := rfl

/-! `setAux` -/

@[simp] theorem setAux_time (s : State) (l : Fin 4) (a : AuxLine) : (s.setAux l a).time = s.time := rfl
@[simp] theorem setAux_scanner (s : State) (l : Fin 4) (a : AuxLine) : (s.setAux l a).scanner = s.scanner := rfl
@[simp] theorem setAux_pose (s : State) (l : Fin 4) (a : AuxLine) : (s.setAux l a).pose = s.pose := rfl
@[simp] theorem setAux_table (s : State) (l : Fin 4) (a : AuxLine) : (s.setAux l a).table = s.table := rfl
@[simp] theorem setAux_zones (s : State) (l : Fin 4) (a : AuxLine) : (s.setAux l a).zones = s.zones := rfl
@[simp] theorem setAux_tracker (s : State) (l : Fin 4) (a : AuxLine) : (s.setAux l a).tracker = s.tracker := rfl
@[simp] theorem setAux_weigh (s : State) (l : Fin 4) (a : AuxLine) : (s.setAux l a).weigh = s.weigh := rfl
@[simp] theorem setAux_op (s : State) (l : Fin 4) (a : AuxLine) : (s.setAux l a).op = s.op := rfl
@[simp] theorem setAux_tally (s : State) (l : Fin 4) (a : AuxLine) : (s.setAux l a).tally = s.tally := rfl
@[simp] theorem setAux_records (s : State) (l : Fin 4) (a : AuxLine) : (s.setAux l a).records = s.records := rfl
@[simp] theorem setAux_events (s : State) (l : Fin 4) (a : AuxLine) : (s.setAux l a).events = s.events := rfl
@[simp] theorem setAux_link (s : State) (l : Fin 4) (a : AuxLine) : (s.setAux l a).link = s.link := rfl
@[simp] theorem setAux_free (s : State) (l : Fin 4) (a : AuxLine) : (s.setAux l a).free = s.free := rfl
@[simp] theorem setAux_pending (s : State) (l : Fin 4) (a : AuxLine) : (s.setAux l a).pending = s.pending := rfl

/-! `withReply` -/

@[simp] theorem withReply_time (s : State) (r : Reply) : (s.withReply r).time = s.time := rfl
@[simp] theorem withReply_scanner (s : State) (r : Reply) : (s.withReply r).scanner = s.scanner := rfl
@[simp] theorem withReply_pose (s : State) (r : Reply) : (s.withReply r).pose = s.pose := rfl
@[simp] theorem withReply_table (s : State) (r : Reply) : (s.withReply r).table = s.table := rfl
@[simp] theorem withReply_zones (s : State) (r : Reply) : (s.withReply r).zones = s.zones := rfl
@[simp] theorem withReply_tracker (s : State) (r : Reply) : (s.withReply r).tracker = s.tracker := rfl
@[simp] theorem withReply_weigh (s : State) (r : Reply) : (s.withReply r).weigh = s.weigh := rfl
@[simp] theorem withReply_op (s : State) (r : Reply) : (s.withReply r).op = s.op := rfl
@[simp] theorem withReply_tally (s : State) (r : Reply) : (s.withReply r).tally = s.tally := rfl
@[simp] theorem withReply_records (s : State) (r : Reply) : (s.withReply r).records = s.records := rfl
@[simp] theorem withReply_permit (s : State) (r : Reply) : (s.withReply r).permit = s.permit := rfl
@[simp] theorem withReply_events (s : State) (r : Reply) : (s.withReply r).events = s.events := rfl
@[simp] theorem withReply_free (s : State) (r : Reply) : (s.withReply r).free = s.free := rfl
@[simp] theorem withReply_pending (s : State) (r : Reply) : (s.withReply r).pending = s.pending := rfl

/-! `replied` -/

@[simp] theorem replied_time (s : State) (tag code : Byte) (st : Status) (bs : List Byte) : (s.replied tag code st bs).time = s.time := rfl
@[simp] theorem replied_scanner (s : State) (tag code : Byte) (st : Status) (bs : List Byte) : (s.replied tag code st bs).scanner = s.scanner := rfl
@[simp] theorem replied_pose (s : State) (tag code : Byte) (st : Status) (bs : List Byte) : (s.replied tag code st bs).pose = s.pose := rfl
@[simp] theorem replied_table (s : State) (tag code : Byte) (st : Status) (bs : List Byte) : (s.replied tag code st bs).table = s.table := rfl
@[simp] theorem replied_zones (s : State) (tag code : Byte) (st : Status) (bs : List Byte) : (s.replied tag code st bs).zones = s.zones := rfl
@[simp] theorem replied_tracker (s : State) (tag code : Byte) (st : Status) (bs : List Byte) : (s.replied tag code st bs).tracker = s.tracker := rfl
@[simp] theorem replied_weigh (s : State) (tag code : Byte) (st : Status) (bs : List Byte) : (s.replied tag code st bs).weigh = s.weigh := rfl
@[simp] theorem replied_op (s : State) (tag code : Byte) (st : Status) (bs : List Byte) : (s.replied tag code st bs).op = s.op := rfl
@[simp] theorem replied_tally (s : State) (tag code : Byte) (st : Status) (bs : List Byte) : (s.replied tag code st bs).tally = s.tally := rfl
@[simp] theorem replied_records (s : State) (tag code : Byte) (st : Status) (bs : List Byte) : (s.replied tag code st bs).records = s.records := rfl
@[simp] theorem replied_permit (s : State) (tag code : Byte) (st : Status) (bs : List Byte) : (s.replied tag code st bs).permit = s.permit := rfl
@[simp] theorem replied_events (s : State) (tag code : Byte) (st : Status) (bs : List Byte) : (s.replied tag code st bs).events = s.events := rfl
@[simp] theorem replied_free (s : State) (tag code : Byte) (st : Status) (bs : List Byte) : (s.replied tag code st bs).free = s.free := rfl
@[simp] theorem replied_pending (s : State) (tag code : Byte) (st : Status) (bs : List Byte) : (s.replied tag code st bs).pending = s.pending := rfl

/-! What they set -/

@[simp] theorem raise_events (s : State) (d : Detail) : (s.raise d).events = s.events.raise s.sending d := rfl
@[simp] theorem raiseAll_nil (s : State) : s.raiseAll [] = s := rfl
theorem raiseAll_cons (s : State) (d : Detail) (ds : List Detail) : s.raiseAll (d :: ds) = (s.raise d).raiseAll ds := rfl
@[simp] theorem evaluate_permit (s : State) (c : HoldCause) : (s.evaluate c).permit = s.permit.evaluate := rfl
@[simp] theorem evaluateQuiet_permit (s : State) : s.evaluateQuiet.permit = s.permit.evaluate := rfl
@[simp] theorem setSupervision_sup (s : State) (v : Supervision) : (s.setSupervision v).permit.sup = v := rfl
@[simp] theorem setSupervision_aux (s : State) (v : Supervision) : (s.setSupervision v).permit.aux = s.permit.aux := rfl
@[simp] theorem setAux_rows (s : State) (l : Fin 4) (a : AuxLine) : (s.setAux l a).permit.rows = s.permit.rows := rfl
@[simp] theorem setAux_outputs (s : State) (l : Fin 4) (a : AuxLine) : (s.setAux l a).permit.outputs = s.permit.outputs := rfl
@[simp] theorem setAux_sup (s : State) (l : Fin 4) (a : AuxLine) : (s.setAux l a).permit.sup = s.permit.sup := rfl
@[simp] theorem withReply_slot (s : State) (r : Reply) : (s.withReply r).link.slot = some r := rfl
@[simp] theorem replied_slot (s : State) (tag code : Byte) (st : Status) (bs : List Byte) :
    (s.replied tag code st bs).link.slot = some ⟨tag, code, st, bs, 0, .nothing⟩ := rfl

end Sys2Proof.Machine.State

namespace Sys2Proof.Machine.PermitUnit

/-- After an evaluation the outputs are the most restrictive contributions (R155). -/
@[simp] theorem evaluate_outputs (p : PermitUnit) : p.evaluate.outputs = p.rows.combine := rfl
@[simp] theorem evaluate_rows (p : PermitUnit) : p.evaluate.rows = p.rows := rfl
@[simp] theorem evaluate_aux (p : PermitUnit) : p.evaluate.aux = p.aux := rfl
@[simp] theorem evaluate_sup (p : PermitUnit) : p.evaluate.sup = p.sup := rfl

end Sys2Proof.Machine.PermitUnit
end

