-- ==== Sys2Proof/Laws/Requests.lean ====
section
/-! SUPPORT. How a request command reaches its block: the frame it offers, the read-back of its operands, and what taking it does. A
proof about a request cites these and unfolds only the block's answer. -/
namespace Sys2Proof.Machine

/-! ### The read-back of operands (R195) -/

/-- A 2-byte field is read back. -/
@[simp] theorem join16_split16 (v : BitVec 16) : join16 (v.extractLsb' 8 8) (v.extractLsb' 0 8) = v := by
  apply BitVec.eq_of_getLsbD_eq
  intro i hi
  have h := @BitVec.getLsbD_append 8 8 i (v.extractLsb' 8 8) (v.extractLsb' 0 8)
  unfold join16
  rw [h]
  simp only [BitVec.getLsbD_extractLsb']
  by_cases h8 : i < 8
  · simp [h8]
  · simp [h8, show i - 8 < 8 by omega, show 8 + (i - 8) = i by omega]

/-- A 3-byte field is read back. -/
@[simp] theorem join24_split24 (v : BitVec 24) :
    join24 (v.extractLsb' 16 8) (v.extractLsb' 8 8) (v.extractLsb' 0 8) = v := by
  apply BitVec.eq_of_getLsbD_eq
  intro i hi
  have h := @BitVec.getLsbD_append 16 8 i (v.extractLsb' 16 8 ++ v.extractLsb' 8 8) (v.extractLsb' 0 8)
  have h' := @BitVec.getLsbD_append 8 8 (i - 8) (v.extractLsb' 16 8) (v.extractLsb' 8 8)
  unfold join24
  rw [h, h']
  simp only [BitVec.getLsbD_extractLsb']
  by_cases h8 : i < 8
  · simp [h8]
  · by_cases h16 : i < 16
    · simp [h8, show i - 8 < 8 by omega, show 8 + (i - 8) = i by omega]
    · simp [h8, show ¬ i - 8 < 8 by omega, show i - 8 - 8 < 8 by omega, show 16 + (i - 8 - 8) = i by omega]

/-- The cells of a TABLE_WRITE are read back (R32). -/
@[simp] theorem joinCells_splitCells (cells : List (BitVec 16 × BitVec 16 × BitVec 16)) : joinCells (splitCells cells) = cells := by
  induction cells with
  | nil => rfl
  | cons c rest ih =>
    have h : splitCells (c :: rest) =
        c.1.extractLsb' 8 8 :: c.1.extractLsb' 0 8 :: c.2.1.extractLsb' 8 8 :: c.2.1.extractLsb' 0 8 ::
          c.2.2.extractLsb' 8 8 :: c.2.2.extractLsb' 0 8 :: splitCells rest := rfl
    rw [h]
    simp [joinCells, ih]

/-- The weights of a TALLY_SET are read back (R117). -/
@[simp] theorem joinWeights_splitWeights (weights : List (BitVec 24)) : joinWeights (splitWeights weights) = weights := by
  induction weights with
  | nil => rfl
  | cons w rest ih =>
    have h : splitWeights (w :: rest) =
        w.extractLsb' 16 8 :: w.extractLsb' 8 8 :: w.extractLsb' 0 8 :: splitWeights rest := rfl
    rw [h]
    simp [joinWeights, ih]

/-! ### Arrival and taking (R185, R186) -/

/-- A request command offers its frame to the receive buffer. -/
theorem exec_of_requestOf {i : Instr} {f : RequestFrame} (h : requestOf i = some f) (s : State) : exec i s = .next (offer f s) := by
  cases i <;> simp only [requestOf, Option.some.injEq, reduceCtorEq] at h <;> subst h <;> rfl

/-- The oldest waiting request is taken into an empty slot. -/
theorem takeNext_of_buffer {s : State} {f : RequestFrame} {rest : List RequestFrame} (h1 : s.link.slot = none)
    (h2 : s.link.buffer = f :: rest) : takeNext s = takeRequest f { s with link := { s.link with buffer := rest } } := by
  unfold takeNext
  split
  · next g r _ hb =>
    rw [h2] at hb
    injection hb with hg hr
    rw [hg, hr]
  · next _ hb => simp [h2] at hb
  · next r hs => simp [h1] at hs

/-- With no request waiting, none is taken. -/
theorem takeNext_of_empty {s : State} (h : s.link.buffer = []) : takeNext s = s := by
  unfold takeNext
  split
  · next _ hb => simp [h] at hb
  · rfl
  · rfl

/-- With a reply in the slot, no request is taken. -/
theorem takeNext_of_slot {s : State} {r : Reply} (h : s.link.slot = some r) : takeNext s = s := by
  unfold takeNext
  split
  · next hs _ => simp [h] at hs
  · rfl
  · rfl

/-- With the slot and the buffer empty a request is taken as it arrives. -/
theorem offer_of_linkReady {s : State} (h : s.linkReady) (f : RequestFrame) : offer f s = takeRequest f s := by
  have hs : { s with link := { s.link with buffer := [] } } = s := by rw [← h.2]
  have hj : join f s = { s with link := { s.link with buffer := [f] } } := by simp [join, h.2]
  unfold offer
  rw [takeNext_of_empty h.2, hj]
  exact (takeNext_of_buffer (s := { s with link := { s.link with buffer := [f] } }) h.1 rfl).trans (congrArg (takeRequest f) hs)

/-- With a reply in the slot a request waits, or is lost when four wait. -/
theorem offer_of_slot {s : State} {r : Reply} (h : s.link.slot = some r) (f : RequestFrame) : offer f s = join f s := by
  have h2 : (join f s).link.slot = some r := by
    unfold join
    split <;> exact h
  unfold offer
  rw [takeNext_of_slot h, takeNext_of_slot h2]

/-- Taking a request of the list, at the length its code requires. -/
theorem takeRequest_of_command {f : RequestFrame} {i : Instr} {n : Nat} (hl : requestLength f.code.toNat = some n)
    (hn : f.values.length = n) (hc : commandOf f = some i) (s : State) :
    takeRequest f s = (answer i s).state.withReply
      ⟨f.tag, f.code, (answer i s).status, (answer i s).results, (answer i s).carried, (answer i s).after⟩ := by
  have h : answerFrame f s = answer i s := by simp [answerFrame, hl, hn, hc]
  simp only [takeRequest, replyOf, h]
  rfl

/-- Taking a request whose code is not listed. -/
theorem takeRequest_of_unknown {f : RequestFrame} (hl : requestLength f.code.toNat = none) (s : State) :
    takeRequest f s = s.replied f.tag f.code .unknown [] := by
  simp only [takeRequest, replyOf, answerFrame, hl]
  rfl

/-- Taking a request of a wrong length. -/
theorem takeRequest_of_length {f : RequestFrame} {n : Nat} (hl : requestLength f.code.toNat = some n)
    (hn : f.values.length ≠ n) (s : State) : takeRequest f s = s.replied f.tag f.code .format [] := by
  simp only [takeRequest, replyOf, answerFrame, hl, if_pos hn]
  rfl

/-- A reply stands in the slot once a request is taken. -/
@[simp] theorem takeRequest_slot (f : RequestFrame) (s : State) :
    (takeRequest f s).link.slot = some (replyOf f (answerFrame f s)) := rfl

/-- The codes of R196 are those with a length. -/
theorem requestLength_none_iff (code : Nat) : requestLength code = none ↔ code ∉ requestCodes := by
  by_cases h : code < 128
  · revert h code; decide
  · constructor
    · intro _ hm
      have : ∀ c ∈ requestCodes, c < 128 := by decide
      exact h (this code hm)
    · intro _
      unfold requestLength
      split <;> first | rfl | (exfalso; omega)

/-! ### A reply's items by cases -/

/-- The last result in a reply, by what the result is. -/
theorem lastResultBytes_eq (r : LastResult) : lastResultBytes r = [r.kind.code, r.result.code]
    ++ (match r.result with | .done => [0] | .failed x => [1, x.code] | .aborted c => [1, c.code]) ++ timeBytes r.time := by
  obtain ⟨_, result, _⟩ := r
  cases result <;> rfl

end Sys2Proof.Machine
end

