-- ==== Sys2Proof/Laws/Scans.lean ====
section
/-! SUPPORT. What one scan completion does, field by field, and what the tracker does with a scan. A proof about SCAN_COMPLETION cites
these and unfolds only the block it is about. -/
namespace Sys2Proof.Machine

/-! ### The completed scan -/

/-- A scan in progress whose conversions can have ended completes. -/
theorem exec_scanCompletion {raw : Vector (BitVec 16) 12} {run : ScanRun} {s : State} (h : s.scanner.running = some run)
    (hc : run.canComplete s.time = true) : exec (.scanCompletion raw) s = .next (completeScan run raw s) := by
  show Host.Outcome.next (scanCompletion raw s) = _
  simp [scanCompletion, h, hc]

section
variable (raw : Vector (BitVec 16) 12) (s : State) (i : Fin 12)

@[simp] theorem judgeScan_raw (cs : Vector Channel 12) (time : Time) : (judgeScan cs raw time).raw = raw := rfl
@[simp] theorem judgeScan_time (cs : Vector Channel 12) (time : Time) : (judgeScan cs raw time).time = time := rfl
@[simp] theorem judgeScan_scaled (cs : Vector Channel 12) (time : Time) : (judgeScan cs raw time).scaled[i] = scaledValue raw i := by
  simp [judgeScan]
@[simp] theorem judgeScan_band (cs : Vector Channel 12) (time : Time) :
    (judgeScan cs raw time).band[i] = judgeBand cs[i] (scaledValue raw i) := by
  simp [judgeScan]
theorem judgeScan_referenced (cs : Vector Channel 12) (time : Time) : (judgeScan cs raw time).referenced =
    ((judgeScan cs raw time).band[11] == .inside && (judgeScan cs raw time).band[10] == .inside) := by
  simp only [judgeScan, Fin.getElem_fin, Vector.getElem_ofFn]
  rfl
@[simp] theorem scanView_scan : (scanView raw s).scan = completedScan raw s := rfl
@[simp] theorem scanView_pose : (scanView raw s).pose = completedPose raw s := rfl
@[simp] theorem scanView_tableValid : (scanView raw s).tableValid = (s.table.state == .valid) := rfl
theorem scanView_bunkZone : (scanView raw s).bunkZone = (completedZones raw s).summary.any Summary.bunk := by
  simp only [scanView]
theorem scanView_weighZone : (scanView raw s).weighZone = (completedZones raw s).summary.any Summary.weigh := by
  simp only [scanView]
@[simp] theorem completedScan_time : (completedScan raw s).time = s.time := rfl
@[simp] theorem completedPose_time : (completedPose raw s).time = s.time := rfl

end

/-! ### The tracker takes a scan (R57 to R60, R68) -/

/-- The state that a scan hands to the tracker: geometry taken, weight judged. -/
def beforeTrack (run : ScanRun) (raw : Vector (BitVec 16) 12) (s : State) : State :=
  takeWeight (scanView raw s) (scanWeight (scanView raw s) s) (takeGeometry run raw (scanView raw s) s)

section
variable (v : ScanView) (s : State)

/-- Finalization leaves every other block alone. -/
theorem finalize_frame (l : Lift) (rel : Release) (now : Time) : { (finalize l rel now s).1 with
    tracker := s.tracker, weigh := s.weigh, tally := s.tally, records := s.records } = s := rfl

/-- The tracker's step changes tracker, weigh unit, tally and records only. -/
theorem track_frame : ∃ k w t q, (track v s).1 = { s with tracker := k, weigh := w, tally := t, records := q } := by
  unfold track trackGripping trackReleasing
  split
  · split <;> exact ⟨_, _, _, _, rfl⟩
  · split
    · split <;> first | exact ⟨_, _, _, _, rfl⟩ | (split <;> exact ⟨_, _, _, _, rfl⟩)
    · exact ⟨_, _, _, _, rfl⟩

@[simp] theorem track_time : (track v s).1.time = s.time := by obtain ⟨_, _, _, _, h⟩ := track_frame v s; rw [h]
@[simp] theorem track_scanner : (track v s).1.scanner = s.scanner := by obtain ⟨_, _, _, _, h⟩ := track_frame v s; rw [h]
@[simp] theorem track_pose : (track v s).1.pose = s.pose := by obtain ⟨_, _, _, _, h⟩ := track_frame v s; rw [h]
@[simp] theorem track_table : (track v s).1.table = s.table := by obtain ⟨_, _, _, _, h⟩ := track_frame v s; rw [h]
@[simp] theorem track_zones : (track v s).1.zones = s.zones := by obtain ⟨_, _, _, _, h⟩ := track_frame v s; rw [h]
@[simp] theorem track_op : (track v s).1.op = s.op := by obtain ⟨_, _, _, _, h⟩ := track_frame v s; rw [h]
@[simp] theorem track_permit : (track v s).1.permit = s.permit := by obtain ⟨_, _, _, _, h⟩ := track_frame v s; rw [h]
@[simp] theorem track_events : (track v s).1.events = s.events := by obtain ⟨_, _, _, _, h⟩ := track_frame v s; rw [h]
@[simp] theorem track_link : (track v s).1.link = s.link := by obtain ⟨_, _, _, _, h⟩ := track_frame v s; rw [h]
@[simp] theorem track_free : (track v s).1.free = s.free := by obtain ⟨_, _, _, _, h⟩ := track_frame v s; rw [h]
@[simp] theorem track_pending : (track v s).1.pending = s.pending := by obtain ⟨_, _, _, _, h⟩ := track_frame v s; rw [h]

/-- The parameters stay, and the current sort. -/
@[simp] theorem track_params : (track v s).1.weigh.params = s.weigh.params := by
  unfold track trackGripping trackReleasing
  split
  · split <;> rfl
  · split
    · split <;> first | rfl | (split <;> rfl)
    · rfl
@[simp] theorem track_sort : (track v s).1.tracker.sort = s.tracker.sort := by
  unfold track trackGripping trackReleasing
  split
  · split <;> rfl
  · split
    · split <;> first | rfl | (split <;> rfl)
    · rfl

/-- A scan that is neither gripping nor releasing makes no transition. -/
theorem track_neither (h1 : v.scan.gripping s.weigh.params = false) (h2 : v.scan.releasing s.weigh.params = false) :
    track v s = (s, []) := by
  simp [track, h1, h2]

/-- A gripping scan. -/
theorem track_of_gripping (h : v.scan.gripping s.weigh.params = true) : track v s = trackGripping v s := by
  simp [track, h]

/-- A releasing scan that is not gripping. -/
theorem track_of_releasing (h1 : v.scan.gripping s.weigh.params = false) (h2 : v.scan.releasing s.weigh.params = true) :
    track v s = trackReleasing v s := by
  simp [track, h1, h2]

/-- With the release threshold below the grip threshold no scan is both. -/
theorem not_gripping_of_releasing {p : WeighParams} {scan : Scan} (hp : p.release < p.grip) (h : scan.releasing p = true) :
    scan.gripping p = false := by
  simp only [Scan.releasing, Bool.and_eq_true, decide_eq_true_eq] at h
  simp only [Scan.gripping, h.1, Bool.true_and, decide_eq_false_iff_not]
  omega

end

/-! ### What takes the scan before the tracker -/

section
variable (v : ScanView) (w : Option Int) (run : ScanRun) (raw : Vector (BitVec 16) 12) (s : State)

@[simp] theorem takeGeometry_time : (takeGeometry run raw v s).time = s.time := rfl
@[simp] theorem takeGeometry_table : (takeGeometry run raw v s).table = s.table := rfl
@[simp] theorem takeGeometry_tracker : (takeGeometry run raw v s).tracker = s.tracker := rfl
@[simp] theorem takeGeometry_weigh : (takeGeometry run raw v s).weigh = s.weigh := rfl
@[simp] theorem takeGeometry_op : (takeGeometry run raw v s).op = s.op := rfl
@[simp] theorem takeGeometry_tally : (takeGeometry run raw v s).tally = s.tally := rfl
@[simp] theorem takeGeometry_records : (takeGeometry run raw v s).records = s.records := rfl
@[simp] theorem takeGeometry_permit : (takeGeometry run raw v s).permit = s.permit := rfl
@[simp] theorem takeGeometry_events : (takeGeometry run raw v s).events = s.events := rfl
@[simp] theorem takeGeometry_link : (takeGeometry run raw v s).link = s.link := rfl
@[simp] theorem takeGeometry_free : (takeGeometry run raw v s).free = s.free := rfl
@[simp] theorem takeGeometry_pending : (takeGeometry run raw v s).pending = s.pending := rfl
@[simp] theorem takeGeometry_scanner : (takeGeometry run raw v s).scanner =
    { s.scanner with running := none, latest := some v.scan } := rfl
@[simp] theorem takeGeometry_pose : (takeGeometry run raw v s).pose =
    { s.pose with latest := some v.pose, prev := some ⟨v.pose.slew, v.pose.theta, run.loaded⟩ } := rfl
@[simp] theorem takeGeometry_zones : (takeGeometry run raw v s).zones = completedZones raw s := rfl
@[simp] theorem takeWeight_time : (takeWeight v w s).time = s.time := rfl
@[simp] theorem takeWeight_scanner : (takeWeight v w s).scanner = s.scanner := rfl
@[simp] theorem takeWeight_pose : (takeWeight v w s).pose = s.pose := rfl
@[simp] theorem takeWeight_table : (takeWeight v w s).table = s.table := rfl
@[simp] theorem takeWeight_zones : (takeWeight v w s).zones = s.zones := rfl
@[simp] theorem takeWeight_op : (takeWeight v w s).op = s.op := rfl
@[simp] theorem takeWeight_tally : (takeWeight v w s).tally = s.tally := rfl
@[simp] theorem takeWeight_records : (takeWeight v w s).records = s.records := rfl
@[simp] theorem takeWeight_permit : (takeWeight v w s).permit = s.permit := rfl
@[simp] theorem takeWeight_events : (takeWeight v w s).events = s.events := rfl
@[simp] theorem takeWeight_link : (takeWeight v w s).link = s.link := rfl
@[simp] theorem takeWeight_free : (takeWeight v w s).free = s.free := rfl
@[simp] theorem takeWeight_pending : (takeWeight v w s).pending = s.pending := rfl
@[simp] theorem takeWeight_weigh : (takeWeight v w s).weigh = s.weigh.takeScan v w := rfl
/-- Only the OVERLOAD_SEEN flag of a lift in progress can change before the tracker's step (R74). -/
theorem takeWeight_tracker : (takeWeight v w s).tracker =
    if !s.weigh.overload && (s.weigh.takeScan v w).overload && s.weigh.context.isLift then s.tracker.seeOverload else s.tracker := rfl
@[simp] theorem takeWeight_sort : (takeWeight v w s).tracker.sort = s.tracker.sort := by
  rw [takeWeight_tracker]
  split <;> rfl

end

/-! ### The state after the completion -/

section
variable (run : ScanRun) (raw : Vector (BitVec 16) 12) (s : State)

@[simp] theorem completeScan_time : (completeScan run raw s).time = s.time := by
  simp only [completeScan, afterScan, State.raiseAll_time, track_time, takeWeight_time, takeGeometry_time]
@[simp] theorem completeScan_table : (completeScan run raw s).table = s.table := by
  simp only [completeScan, afterScan, State.raiseAll_table, track_table, takeWeight_table, takeGeometry_table]
@[simp] theorem completeScan_zones : (completeScan run raw s).zones = completedZones raw s := by
  simp only [completeScan, afterScan, State.raiseAll_zones, track_zones, takeWeight_zones, takeGeometry_zones]
@[simp] theorem completeScan_link : (completeScan run raw s).link = s.link := by
  simp only [completeScan, afterScan, State.raiseAll_link, track_link, takeWeight_link, takeGeometry_link]
@[simp] theorem completeScan_pending : (completeScan run raw s).pending = s.pending := by
  simp only [completeScan, afterScan, State.raiseAll_pending, track_pending, takeWeight_pending, takeGeometry_pending]
@[simp] theorem completeScan_free : (completeScan run raw s).free = s.free + 1 := rfl
@[simp] theorem completeScan_pose : (completeScan run raw s).pose =
    { s.pose with
      latest := some (completedPose raw s)
      prev := some ⟨(completedPose raw s).slew, (completedPose raw s).theta, run.loaded⟩ } := by
  simp only [completeScan, afterScan, State.raiseAll_pose, track_pose, takeWeight_pose, takeGeometry_pose, scanView_pose]
@[simp] theorem completeScan_scanner : (completeScan run raw s).scanner =
    Scanner.startWaiting
      ((opAtScan s.op.slot run.isOnce s.weigh.params (completedScan raw s) (scanWeight (scanView raw s) s)
        (windowAfter s.weigh (scanView raw s) (scanWeight (scanView raw s) s))).slot == some .scanOnce) s.time
      { s.scanner with running := none, latest := some (completedScan raw s) } := by
  simp only [completeScan, afterScan, State.raiseAll_scanner, track_scanner, takeWeight_scanner, takeGeometry_scanner,
    takeWeight_weigh, takeGeometry_weigh, Weigh.takeScan, scanView_scan]
@[simp] theorem completeScan_op : (completeScan run raw s).op =
    (opAtScan s.op.slot run.isOnce s.weigh.params (completedScan raw s) (scanWeight (scanView raw s) s)
      (windowAfter s.weigh (scanView raw s) (scanWeight (scanView raw s) s))).unit s.op.last := by
  simp only [completeScan, afterScan, State.raiseAll_op, takeWeight_weigh, takeGeometry_weigh, Weigh.takeScan, scanView_scan]
theorem completeScan_tracker : (completeScan run raw s).tracker = (track (scanView raw s) (beforeTrack run raw s)).1.tracker := by
  simp only [completeScan, afterScan, State.raiseAll_tracker, beforeTrack]
theorem completeScan_tally : (completeScan run raw s).tally = (track (scanView raw s) (beforeTrack run raw s)).1.tally := by
  simp only [completeScan, afterScan, State.raiseAll_tally, beforeTrack]
theorem completeScan_records : (completeScan run raw s).records = (track (scanView raw s) (beforeTrack run raw s)).1.records := by
  simp only [completeScan, afterScan, State.raiseAll_records, beforeTrack]
/-- The weigh unit after the completion: the tracker's report, the latest weight, the history, and the value an operation wrote. -/
theorem completeScan_weigh : (completeScan run raw s).weigh =
    let w := (settleLatest s (track (scanView raw s) (beforeTrack run raw s)).1.weigh).enterHistory (scanView raw s)
    { w with params := (opAtScan s.op.slot run.isOnce s.weigh.params (completedScan raw s) (scanWeight (scanView raw s) s)
        (windowAfter s.weigh (scanView raw s) (scanWeight (scanView raw s) s))).write w.params } := by
  simp only [completeScan, afterScan, State.raiseAll_weigh, beforeTrack, takeWeight_weigh, takeGeometry_weigh, Weigh.takeScan,
    scanView_scan]
/-- The permit unit after the completion: the rows formed together, then one evaluation (R155). -/
theorem completeScan_permit : (completeScan run raw s).permit =
    PermitUnit.evaluate { s.permit with
      rows := scanRows (scanView raw s) (completedZones raw s) (completeScan run raw s).weigh.overload s.permit.rows } := by
  rw [completeScan_weigh]
  simp only [completeScan, afterScan, State.raiseAll_permit, track_permit, takeWeight_permit, takeGeometry_permit, track_zones,
    takeWeight_zones, takeGeometry_zones, beforeTrack]

end

end Sys2Proof.Machine
end

