-- ==== Sys2Proof/Laws/Keeps.lean ====
section
/-! SUPPORT. The induction principle for invariants: what must keep a property so that every command and every step keep it. The link
port's, the event unit's and the queue's own updates are taken care of here once. -/
namespace Sys2Proof.Machine

/-- A property that says nothing about the link port and the free counter, and that an occurrence, the report of a kind whose notice
begins, and the end of a notice keep. -/
structure Blind (P : State → Prop) : Prop where
  link : ∀ s l, P s → P { s with link := l }
  raise : ∀ s d, P s → P (s.raise d)
  noticeBegun : ∀ s k, P s → P { s with events := (s.events.report k).settle true }
  noticeSent : ∀ s, P s → P { s with events := { s.events with queue := s.events.queue.drop 1 }.settle false }
  free : ∀ s n, P s → P { s with free := n }

/-- What must keep a blind property: the answers of the blocks, the good frame at supervision, supply, the link reset, what leaves the
record queue or is marked in it, and the commands of time and of the crane side. -/
structure Kept (P : State → Prop) : Prop extends Blind P where
  answer : ∀ i s, P s → P (answer i s).state
  goodFrame : ∀ s, P s → P s.goodFrame
  powerOn : ∀ levels s, P s → P (powerOn levels s)
  linkReset : ∀ cause s, P s → P (linkReset cause s)
  mark : ∀ s n, P s → P { s with records := { s.records with records := markFirst n s.records.records } }
  remove : ∀ s n, P s → P { s with records := s.records.remove n }
  scanTimer : ∀ s, P s → P (scanTimerExpiry s)
  scan : ∀ run raw s, s.scanner.running = some run → P s → P (completeScan run raw s)
  regrip : ∀ s, P s → P (regripTimerExpiry s)
  auxInput : ∀ line high s, P s → P (auxInputChange line high s)
  auxDebounce : ∀ line s, P s → P (auxDebounceExpiry line s)
  supervision : ∀ s, P s → P (supervisionTimerExpiry s)

namespace Kept
variable {P : State → Prop} (h : Kept P)
include h

theorem takeRequest (f : RequestFrame) (s : State) (p : P s) : P (takeRequest f s) := by
  have q : P (answerFrame f s).state := by
    unfold answerFrame
    split
    · exact p
    · split
      · exact p
      · split
        · exact h.answer _ _ p
        · exact p
  exact h.link _ _ q

theorem takeNext (s : State) (p : P s) : P (takeNext s) := by
  unfold Machine.takeNext
  split
  · exact h.takeRequest _ _ (h.link _ _ p)
  · exact p
  · exact p

theorem join (f : RequestFrame) (s : State) (p : P s) : P (join f s) := by
  unfold Machine.join
  split
  · exact h.link _ _ p
  · exact h.raise _ _ p

theorem offer (f : RequestFrame) (s : State) (p : P s) : P (offer f s) := h.takeNext _ (h.join _ _ (h.takeNext _ p))

theorem acceptFrame (len : Nat) (bytes : List Byte) (s : State) (p : P s) : P (acceptFrame len bytes s) := by
  unfold Machine.acceptFrame
  dsimp only
  split
  · exact h.offer _ _ (h.goodFrame _ p)
  · exact h.raise _ _ (h.goodFrame _ p)

theorem hunt (fuel : Nat) (bytes : List Byte) (s : State) (p : P s) : P (hunt fuel bytes s).1 := by
  induction fuel generalizing bytes s with
  | zero => exact p
  | succ n ih =>
    cases bytes with
    | nil => exact p
    | cons b rest =>
      unfold Machine.hunt
      split
      · exact ih _ _ p
      · cases rest with
        | nil => exact p
        | cons lenByte tail =>
          dsimp only
          split
          · exact ih _ _ (h.raise _ _ p)
          · split
            · exact p
            · split
              · exact ih _ _ (h.acceptFrame _ _ _ p)
              · exact ih _ _ (h.raise _ _ p)

theorem receive (bytes : List Byte) (s : State) (p : P s) : P (receive bytes s) := by
  unfold Machine.receive
  split
  · exact p
  · exact h.link _ _ (h.hunt _ _ _ (h.link _ _ p))

theorem abandon (s : State) (p : P s) : P (abandon s) := by
  unfold Machine.abandon
  split
  · exact p
  · exact h.raise _ _ (h.link _ _ p)

theorem frameTimeout (bytes : List Byte) (s : State) (p : P s) : P (frameTimeout bytes s) := by
  unfold Machine.frameTimeout
  split
  · split
    · exact h.abandon _ p
    · exact p
  · exact h.receive _ _ p

theorem lenOutOfRange (len : Byte) (s : State) (p : P s) : P (lenOutOfRange len s) := by
  unfold Machine.lenOutOfRange
  split
  · exact h.receive _ _ p
  · split
    · exact h.receive _ _ p
    · exact p

theorem beginNotice (n : Notice) (s : State) (p : P s) : P (beginNotice n s) := by
  cases n with
  | event k => exact h.link _ _ (h.noticeBegun s k p)
  | attention => exact h.link s _ p

theorem arbitrate (s : State) (p : P s) : P (arbitrate s) := by
  unfold Machine.arbitrate
  split
  · exact h.link _ _ p
  · split
    · exact h.beginNotice _ _ p
    · exact h.link _ _ (h.mark _ 1 p)
    · exact p

theorem transmitStart (s : State) (p : P s) : P (transmitStart s) := by
  unfold Machine.transmitStart
  split
  · exact p
  · exact h.arbitrate _ (h.takeNext _ p)

theorem takeAtFrameEnd (s : State) (p : P s) : P (takeAtFrameEnd s) := by
  unfold Machine.takeAtFrameEnd
  split
  · refine h.takeNext _ ?_
    split
    · exact h.free _ _ p
    · exact h.arbitrate _ (h.free _ _ p)
  · exact h.takeNext _ p

theorem replySent (r : Reply) (s : State) (p : P s) : P (replySent r s) := by
  have q : P { s with link := { s.link with slot := none, tx := none }, records := s.records.remove r.carried } :=
    h.remove { s with link := { s.link with slot := none, tx := none } } _ (h.link _ _ p)
  unfold Machine.replySent
  dsimp only
  split
  · exact q
  · unfold changeSpeed
    split
    · exact q
    · exact h.link _ _ q
  · exact h.linkReset _ _ q

theorem frameTransmitted (s : State) (p : P s) : P (frameTransmitted s) := by
  unfold Machine.frameTransmitted
  split
  · exact p
  · refine h.takeAtFrameEnd _ ?_
    unfold frameSent
    split
    · exact h.replySent _ _ p
    · exact h.link _ _ p
    · exact h.link _ _ (h.noticeSent s p)
    · exact h.remove { s with link := { s.link with tx := none } } 1 (h.link _ _ p)

/-- Every command keeps a kept property. -/
theorem exec (c : Instr) (s t : State) (p : P s) (e : exec c s = .next t) : P t := by
  by_cases hf : ∃ f, requestOf c = some f
  · obtain ⟨f, hf⟩ := hf
    rw [exec_of_requestOf hf, Host.Outcome.next.injEq] at e
    exact e ▸ h.offer f s p
  · cases c <;> first | (exfalso; exact hf ⟨_, rfl⟩) | skip
    case powerOn levels => exact (Host.Outcome.next.inj e) ▸ h.powerOn levels s p
    case scanTimerExpiry => exact (Host.Outcome.next.inj e) ▸ h.scanTimer s p
    case scanCompletion raw =>
      refine (Host.Outcome.next.inj e) ▸ ?_
      unfold scanCompletion
      split
      · exact p
      · next run hr =>
        split
        · exact h.scan run raw s hr p
        · exact p
    case regripTimerExpiry => exact (Host.Outcome.next.inj e) ▸ h.regrip s p
    case auxInputChange line high => exact (Host.Outcome.next.inj e) ▸ h.auxInput line high s p
    case auxDebounceExpiry line => exact (Host.Outcome.next.inj e) ▸ h.auxDebounce line s p
    case supervisionTimerExpiry => exact (Host.Outcome.next.inj e) ▸ h.supervision s p
    case frameReceived bytes => exact (Host.Outcome.next.inj e) ▸ h.receive bytes s p
    case frameTimeout bytes => exact (Host.Outcome.next.inj e) ▸ h.frameTimeout bytes s p
    case lineBreakEnd held =>
      refine (Host.Outcome.next.inj e) ▸ ?_
      unfold lineBreakEnd
      split
      · exact h.linkReset _ s p
      · exact p
    case transmitStart => exact (Host.Outcome.next.inj e) ▸ h.transmitStart s p
    case frameTransmitted => exact (Host.Outcome.next.inj e) ▸ h.frameTransmitted s p
    case lenOutOfRange len => exact (Host.Outcome.next.inj e) ▸ h.lenOutOfRange len s p

/-- Every step keeps a kept property that says nothing about the queue of commands and the time. -/
theorem step (pending : ∀ s q, P s → P { s with pending := q }) (time : ∀ s t, P s → P { s with time := t }) (s t : State) (p : P s)
    (e : step s = .next t) : P t := by
  unfold Machine.step at e
  split at e
  · exact h.exec _ _ _ (pending _ _ p) e
  · rw [← Host.Outcome.next.inj e]
    unfold idle
    split
    · exact time _ _ p
    · exact h.free { s with pending := merged s.free (due s) } _ (pending s _ p)

end Kept
end Sys2Proof.Machine
end

