-- ==== Sys2Proof/Laws/Units.lean ====
section
/-! SUPPORT. The small laws of the shared operations of the units: arithmetic, scanner, tracker thresholds, event unit, permit unit,
operation slot, link port. Each says once what the operation does; a proof about a command cites them. -/
namespace Sys2Proof.Machine

/-! ### Arithmetic -/

/-- A counter that stops at its largest value. -/
theorem satInc_eq (cap n : Nat) : satInc cap n = if n < cap then n + 1 else n := rfl

/-- A field that is out of a finite range names no member of it. -/
theorem finOf_none {n k : Nat} (h : n ≤ k) : finOf n k = none := by simp [finOf, Nat.not_lt.2 h]

/-- A field in a finite range names its member. -/
theorem finOf_some {n k : Nat} (i : Fin n) (h : k = i.val) : finOf n k = some i := by subst h; simp [finOf]

/-- Rounding half up: the result lies within half a unit, the half itself rounded up. -/
theorem roundHalfUp_bounds (num den : Int) (h : 0 < den) :
    2 * den * roundHalfUp num den - den ≤ 2 * num ∧ 2 * num < 2 * den * roundHalfUp num den + den := by
  unfold roundHalfUp
  have h1 := Int.emod_add_mul_ediv (2 * num + den) (2 * den)
  have h2 := Int.emod_nonneg (2 * num + den) (show 2 * den ≠ 0 by omega)
  have h3 := Int.emod_lt_of_pos (2 * num + den) (show 0 < 2 * den by omega)
  generalize 2 * den * ((2 * num + den) / (2 * den)) = q at *
  omega

/-! ### Free orders -/

/-- Taking the head of one list first only changes the order. -/
theorem flatten_set_perm {α : Type} (ls : List (List α)) (i : Nat) (x : α) (xs : List α) (h : ls[i]? = some (x :: xs)) :
    (x :: (ls.set i xs).flatten).Perm ls.flatten := by
  induction ls generalizing i with
  | nil => simp at h
  | cons l ls ih =>
    cases i with
    | zero =>
      simp only [List.getElem?_cons_zero, Option.some.injEq] at h
      subst h
      simp
    | succ i =>
      simp only [List.getElem?_cons_succ] at h
      simp only [List.set_cons_succ, List.flatten_cons]
      exact List.perm_middle.symm.trans (List.Perm.append_left l (ih i h))

/-- A merge in a free order has the elements of the lists, whatever the order. -/
theorem mergeFree_perm {α : Type} (counter fuel : Nat) (ls : List (List α)) : (mergeFree counter fuel ls).Perm ls.flatten := by
  induction fuel generalizing ls with
  | zero => exact .refl _
  | succ fuel ih =>
    have hf : (ls.filter fun l => !l.isEmpty).flatten = ls.flatten := List.flatten_filter_not_isEmpty
    unfold mergeFree
    rw [← hf]
    generalize ls.filter (fun l => !l.isEmpty) = ks
    match ks with
    | [] => exact .refl _
    | [l] => simp
    | l :: l' :: rest =>
      dsimp only
      split
      · next x xs h => exact (List.Perm.cons x (ih _)).trans (flatten_set_perm _ _ _ _ h)
      · exact .refl _

/-- The occurrences of several blocks, in a free order. -/
theorem merged_perm {α : Type} (counter : Nat) (ls : List (List α)) : (merged counter ls).Perm ls.flatten := mergeFree_perm ..

theorem mem_merged {α : Type} {counter : Nat} {ls : List (List α)} {x : α} : x ∈ merged counter ls ↔ ∃ l ∈ ls, x ∈ l :=
  (merged_perm counter ls).mem_iff.trans List.mem_flatten

/-- Where at most one of the lists has elements that satisfy `p`, a free order does not touch the order of those. -/
theorem filter_mergeFree {α : Type} (p : α → Bool) (counter fuel : Nat) (ls : List (List α))
    (h : ls.Pairwise fun a b => a.filter p = [] ∨ b.filter p = []) :
    (mergeFree counter fuel ls).filter p = ls.flatten.filter p := by
  induction fuel generalizing ls with
  | zero => rfl
  | succ fuel ih =>
    have hf : (ls.filter fun l => !l.isEmpty).flatten = ls.flatten := List.flatten_filter_not_isEmpty
    have h' := h.filter (fun l => !l.isEmpty)
    unfold mergeFree
    rw [← hf]
    generalize ls.filter (fun l => !l.isEmpty) = ks at h' ⊢
    match ks, h' with
    | [], _ => rfl
    | [l], _ => simp
    | l :: l' :: rest, h' =>
      dsimp only
      generalize Config.free counter fuel % (l :: l' :: rest).length = i
      generalize l :: l' :: rest = ms at h' ⊢
      split
      · next x xs hx =>
        obtain ⟨pre, post, rfl, rfl⟩ : ∃ pre post, ms = pre ++ (x :: xs) :: post ∧ i = pre.length := by
          obtain ⟨hi, he⟩ := List.getElem?_eq_some_iff.1 hx
          exact ⟨ms.take i, ms.drop (i + 1), by rw [← he]; simp, by simp; omega⟩
        rw [List.pairwise_append, List.pairwise_cons] at h'
        obtain ⟨h1, ⟨h2, h3⟩, h4⟩ := h'
        have hset : (pre ++ (x :: xs) :: post).set pre.length xs = pre ++ xs :: post := by simp
        have hsub : ∀ {q : List α}, (x :: xs).filter p = [] ∨ q = [] → xs.filter p = [] ∨ q = [] := by
          intro q hq
          refine hq.imp_left fun hq => ?_
          rw [List.filter_eq_nil_iff] at hq ⊢
          exact fun y hy => hq y (List.mem_cons_of_mem _ hy)
        have hpw : (pre ++ xs :: post).Pairwise fun a b => a.filter p = [] ∨ b.filter p = [] := by
          rw [List.pairwise_append, List.pairwise_cons]
          refine ⟨h1, ⟨fun b hb => hsub (h2 b hb), h3⟩, fun a ha b hb => ?_⟩
          rcases List.mem_cons.1 hb with rfl | hb
          · exact (hsub ((h4 a ha (x :: b) (List.mem_cons_self ..)).symm)).symm
          · exact h4 a ha b (List.mem_cons_of_mem _ hb)
        rw [List.filter_cons, hset, ih _ hpw]
        simp only [List.flatten_append, List.flatten_cons, List.filter_append, List.filter_cons]
        by_cases hp : p x = true
        · have hpre : pre.flatten.filter p = [] := by
            rw [List.filter_flatten, List.flatten_eq_nil_iff]
            intro q hq
            obtain ⟨a, ha, rfl⟩ := List.mem_map.1 hq
            rcases h4 a ha (x :: xs) (List.mem_cons_self ..) with h | h
            · exact h
            · simp [hp] at h
          simp [hp, hpre]
        · simp [hp]
      · rfl

theorem filter_merged {α : Type} (p : α → Bool) (counter : Nat) (ls : List (List α))
    (h : ls.Pairwise fun a b => a.filter p = [] ∨ b.filter p = []) : (merged counter ls).filter p = ls.flatten.filter p :=
  filter_mergeFree p counter _ ls h

/-! ### Scanner -/

/-- The running scan can complete. -/
theorem canComplete_iff (run : ScanRun) (now : Time) :
    run.canComplete now = true ↔ scanDuration run.levels / 1000 ≤ (now - run.start).toNat := by
  unfold ScanRun.canComplete elapsedMs
  exact decide_eq_true_iff

section
variable (o : Bool) (now : Time) (c : Scanner)

@[simp] theorem startWaiting_latest : (Scanner.startWaiting o now c).latest = c.latest := by
  unfold Scanner.startWaiting; split <;> first | rfl | (split <;> rfl)
@[simp] theorem startWaiting_channels : (Scanner.startWaiting o now c).channels = c.channels := by
  unfold Scanner.startWaiting; split <;> first | rfl | (split <;> rfl)
@[simp] theorem startWaiting_mode : (Scanner.startWaiting o now c).mode = c.mode := by
  unfold Scanner.startWaiting; split <;> first | rfl | (split <;> rfl)
@[simp] theorem startWaiting_period : (Scanner.startWaiting o now c).period = c.period := by
  unfold Scanner.startWaiting; split <;> first | rfl | (split <;> rfl)

end

/-! ### Tracker thresholds -/

/-- A gripping scan (R54). -/
theorem gripping_iff (p : WeighParams) (scan : Scan) :
    scan.gripping p = true ↔ scan.band[2] = .inside ∧ (p.grip : Int) ≤ scan.scaled[2] := by
  simp [Scan.gripping, Scan.gripIn]

/-- A releasing scan (R54). -/
theorem releasing_iff (p : WeighParams) (scan : Scan) :
    scan.releasing p = true ↔ scan.band[2] = .inside ∧ scan.scaled[2] < (p.release : Int) := by
  simp [Scan.releasing, Scan.gripIn]

/-! ### Weigh unit -/

/-- A window that is OPEN or SUSPENDED. -/
theorem inUse_iff (w : Window) : w.inUse = true ↔ w.state = .opened ∨ w.state = .suspended := by
  cases h : w.state <;> simp [Window.inUse, h]

/-! ### Operation slot -/

/-- ZERO or SPAN runs. -/
theorem calibrationRuns_iff (slot : Option Op) : calibrationRuns slot = true ↔ ∃ x, slot = some x ∧ x.kind ≠ .scanOnce := by
  cases slot with
  | none => simp [calibrationRuns]
  | some x => cases x <;> simp [calibrationRuns, Op.kind]

/-- An abort touches the slot, the SPAN window and the scan of a SCAN_ONCE only. -/
theorem abortState_frame (cause : AbortCause) (s : State) :
    { abortState cause s with op := s.op, weigh := s.weigh, scanner := s.scanner } = s := by
  unfold abortState
  split <;> rfl

section
variable (cause : AbortCause) (s : State)

@[simp] theorem abortState_time : (abortState cause s).time = s.time := by
  have h := congrArg State.time (abortState_frame cause s)
  exact h
@[simp] theorem abortState_pose : (abortState cause s).pose = s.pose := by
  have h := congrArg State.pose (abortState_frame cause s)
  exact h
@[simp] theorem abortState_table : (abortState cause s).table = s.table := by
  have h := congrArg State.table (abortState_frame cause s)
  exact h
@[simp] theorem abortState_zones : (abortState cause s).zones = s.zones := by
  have h := congrArg State.zones (abortState_frame cause s)
  exact h
@[simp] theorem abortState_tracker : (abortState cause s).tracker = s.tracker := by
  have h := congrArg State.tracker (abortState_frame cause s)
  exact h
@[simp] theorem abortState_tally : (abortState cause s).tally = s.tally := by
  have h := congrArg State.tally (abortState_frame cause s)
  exact h
@[simp] theorem abortState_records : (abortState cause s).records = s.records := by
  have h := congrArg State.records (abortState_frame cause s)
  exact h
@[simp] theorem abortState_permit : (abortState cause s).permit = s.permit := by
  have h := congrArg State.permit (abortState_frame cause s)
  exact h
@[simp] theorem abortState_events : (abortState cause s).events = s.events := by
  have h := congrArg State.events (abortState_frame cause s)
  exact h
@[simp] theorem abortState_link : (abortState cause s).link = s.link := by
  have h := congrArg State.link (abortState_frame cause s)
  exact h
@[simp] theorem abortState_free : (abortState cause s).free = s.free := by
  have h := congrArg State.free (abortState_frame cause s)
  exact h
@[simp] theorem abortState_pending : (abortState cause s).pending = s.pending := by
  have h := congrArg State.pending (abortState_frame cause s)
  exact h
@[simp] theorem abortOp_time : (s.abortOp cause).time = s.time := abortState_time cause s
@[simp] theorem abortOp_pose : (s.abortOp cause).pose = s.pose := abortState_pose cause s
@[simp] theorem abortOp_table : (s.abortOp cause).table = s.table := abortState_table cause s
@[simp] theorem abortOp_zones : (s.abortOp cause).zones = s.zones := abortState_zones cause s
@[simp] theorem abortOp_tracker : (s.abortOp cause).tracker = s.tracker := abortState_tracker cause s
@[simp] theorem abortOp_tally : (s.abortOp cause).tally = s.tally := abortState_tally cause s
@[simp] theorem abortOp_records : (s.abortOp cause).records = s.records := abortState_records cause s
@[simp] theorem abortOp_permit : (s.abortOp cause).permit = s.permit := abortState_permit cause s
@[simp] theorem abortOp_link : (s.abortOp cause).link = s.link := abortState_link cause s
@[simp] theorem abortOp_free : (s.abortOp cause).free = s.free := abortState_free cause s
@[simp] theorem abortOp_pending : (s.abortOp cause).pending = s.pending := abortState_pending cause s
@[simp] theorem abortOp_op : (s.abortOp cause).op = (abortState cause s).op := rfl
@[simp] theorem abortOp_weigh : (s.abortOp cause).weigh = (abortState cause s).weigh := rfl
@[simp] theorem abortOp_scanner : (s.abortOp cause).scanner = (abortState cause s).scanner := rfl

end

/-- An abort keeps the parameters, the samples, the context and the overload. -/
theorem abortState_weigh (cause : AbortCause) (s : State) :
    (abortState cause s).weigh = { s.weigh with window := { s.weigh.window with state := (abortState cause s).weigh.window.state } } := by
  unfold abortState
  split <;> try rfl
  simp only [Weigh.abortSpan]
  split <;> rfl

/-- An abort keeps every setting of the scanner, the timer and the latest scan. -/
theorem abortState_scanner (cause : AbortCause) (s : State) :
    (abortState cause s).scanner = { s.scanner with running := (abortState cause s).scanner.running } := by
  unfold abortState
  split <;> try rfl
  simp only [Scanner.stopOnce]
  split <;> first | rfl | (split <;> rfl)

/-- The slot after an abort, and the last result. -/
theorem abortState_op (cause : AbortCause) (s : State) :
    (abortState cause s).op =
      match s.op.slot with
      | none => s.op
      | some o => ⟨none, some ⟨o.kind, .aborted cause, s.time⟩⟩ := by
  unfold abortState abortDetail
  cases h : s.op.slot with
  | none => rfl
  | some o => cases o <;> rfl

/-! ### Event unit -/

namespace EventUnit

/-- The bit of a kind in a kind set. -/
theorem getLsbD_bit (k j : Kind) : k.bit.getLsbD j.prio.val = (j == k) := by
  cases k <;> cases j <;> rfl

/-- Setting one kind's pending bit. -/
theorem isPending_setPending (e : EventUnit) (k j : Kind) : (e.setPending k).isPending j = (e.isPending j || j == k) := by
  simp only [setPending, isPending, BitVec.getLsbD_or, getLsbD_bit]

/-- Clearing one kind's pending bit. -/
theorem isPending_clearPending (e : EventUnit) (k j : Kind) : (e.clearPending k).isPending j = (e.isPending j && j != k) := by
  simp only [clearPending, isPending, BitVec.getLsbD_and, BitVec.getLsbD_not, getLsbD_bit]
  simp [bne, j.prio.isLt]

/-- Reporting a kind clears its pending bit and no other (R174). -/
theorem isPending_report (e : EventUnit) (k j : Kind) : (e.report k).isPending j = (e.isPending j && j != k) := by
  rw [← isPending_clearPending]
  rfl

/-- Filling the queue (R173) touches pending set and queue only. -/
theorem fill_frame (n : Nat) (e : EventUnit) : { e.fill n with pending := e.pending, queue := e.queue } = e := by
  induction n generalizing e with
  | zero => rfl
  | succ n ih =>
    unfold fill
    split
    · rfl
    · split
      · rfl
      · next k _ =>
        have h := ih { e.clearPending k with queue := e.queue ++ [.event k] }
        simp only [clearPending] at h ⊢
        exact congrArg (fun x : EventUnit => { x with pending := e.pending, queue := e.queue }) h

/-- Settling touches pending set, queue and attention flag only. -/
theorem settle_frame (b : Bool) (e : EventUnit) :
    { e.settle b with pending := e.pending, queue := e.queue, armed := e.armed } = e := by
  unfold settle
  split
  · have h := congrArg (fun x : EventUnit => { x with armed := e.armed }) (fill_frame 8 e)
    dsimp only
    split <;> exact h
  · split <;> first | rfl | (split <;> rfl)

section
variable (b : Bool) (e : EventUnit) (d : Detail)

@[simp] theorem settle_mode : (e.settle b).mode = e.mode := by
  have h := congrArg EventUnit.mode (settle_frame b e)
  exact h
@[simp] theorem settle_mask : (e.settle b).mask = e.mask := by
  have h := congrArg EventUnit.mask (settle_frame b e)
  exact h
@[simp] theorem settle_counts : (e.settle b).counts = e.counts := by
  have h := congrArg EventUnit.counts (settle_frame b e)
  exact h
@[simp] theorem settle_details : (e.settle b).details = e.details := by
  have h := congrArg EventUnit.details (settle_frame b e)
  exact h

/-- What an occurrence sets (R169). -/
@[simp] theorem raise_mode : (e.raise b d).mode = e.mode := settle_mode b _
@[simp] theorem raise_mask : (e.raise b d).mask = e.mask := settle_mask b _
@[simp] theorem raise_details : (e.raise b d).details = e.details.set d.kind.prio (some d) := settle_details b _
@[simp] theorem raise_counts : (e.raise b d).counts = e.counts.set d.kind.prio (satInc 255 (e.count d.kind)) := settle_counts b _

end

/-- Filling the queue sets no pending bit. -/
theorem isPending_of_fill {n : Nat} {e : EventUnit} {k : Kind} (h : (e.fill n).isPending k = true) : e.isPending k = true := by
  induction n generalizing e with
  | zero => exact h
  | succ n ih =>
    unfold fill at h
    split at h
    · exact h
    · split at h
      · exact h
      · next j _ =>
        have h2 : (e.clearPending j).isPending k = true := ih (e := { e.clearPending j with queue := e.queue ++ [.event j] }) h
        rw [isPending_clearPending, Bool.and_eq_true] at h2
        exact h2.1

/-- Settling sets no pending bit. -/
theorem isPending_of_settle {b : Bool} {e : EventUnit} {k : Kind} (h : (e.settle b).isPending k = true) : e.isPending k = true := by
  unfold settle at h
  split at h
  · dsimp only at h
    split at h <;> exact isPending_of_fill (n := 8) h
  · split at h
    · exact h
    · split at h <;> exact h

/-- Setting the kinds of dropped notices pending again touches the pending set only (R176, R179). -/
theorem repend_frame (e : EventUnit) (dropped : List Notice) : { e.repend dropped with pending := e.pending } = e := by
  have key : ∀ (l : List Notice) (f : EventUnit), { f with pending := e.pending } = e →
      { f.repend l with pending := e.pending } = e := by
    intro l
    induction l with
    | nil => exact fun f h => h
    | cons n l ih =>
      intro f h
      cases n with
      | event k => exact ih (f.setPending k) h
      | attention => exact ih f h
  exact key dropped e rfl

/-- The kinds pending after it: those pending before, and those whose notice was dropped. -/
theorem isPending_repend (e : EventUnit) (dropped : List Notice) (k : Kind) :
    (e.repend dropped).isPending k = true ↔ e.isPending k = true ∨ Notice.event k ∈ dropped := by
  unfold repend
  induction dropped generalizing e with
  | nil => simp
  | cons n l ih =>
    rw [List.foldl_cons, ih]
    cases n with
    | event j =>
      simp only [isPending_setPending, Bool.or_eq_true, beq_iff_eq, List.mem_cons, Notice.event.injEq, or_assoc]
    | attention => simp

/-- A kind that is pending or has a notice in the queue still is one or the other once the queue is filled. -/
theorem fill_lossless (n : Nat) (e : EventUnit) (k : Kind) (h : e.isPending k = true ∨ e.hasNotice k = true) :
    (e.fill n).isPending k = true ∨ (e.fill n).hasNotice k = true := by
  induction n generalizing e with
  | zero => exact h
  | succ n ih =>
    unfold fill
    split
    · exact h
    · split
      · exact h
      · next j _ =>
        apply ih
        by_cases hj : k = j
        · right
          subst hj
          simp [hasNotice]
        · rcases h with h | h
          · left
            have := isPending_clearPending e j k
            simp only [isPending] at this h ⊢
            rw [show ({ e.clearPending j with queue := e.queue ++ [.event j] } : EventUnit).pending = (e.clearPending j).pending from rfl,
              this, h]
            simpa using hj
          · right
            simp only [hasNotice, List.contains_eq_mem, decide_eq_true_eq] at h ⊢
            simp [h]

/-- Settling loses no occurrence either. -/
theorem settle_lossless (b : Bool) (e : EventUnit) (k : Kind) (h : e.isPending k = true ∨ e.hasNotice k = true) :
    (e.settle b).isPending k = true ∨ (e.settle b).hasNotice k = true := by
  have hw : ∀ q : List Notice, Notice.event k ∈ q → Notice.event k ∈ withdrawAttention b q := by
    intro q hq
    unfold withdrawAttention
    split
    · simp only [List.mem_cons, List.mem_filter] at hq ⊢
      rcases hq with hq | hq
      · exact .inl hq
      · exact .inr ⟨hq, rfl⟩
    · simp only [List.mem_filter]
      exact ⟨hq, rfl⟩
  unfold settle
  split
  · have := fill_lossless 8 e k h
    dsimp only
    split <;> exact this
  · split
    · refine h.imp id fun hq => ?_
      simp only [hasNotice, List.contains_eq_mem, decide_eq_true_eq] at hq ⊢
      exact hw _ hq
    · split
      · refine h.imp id fun hq => ?_
        simp only [hasNotice, List.contains_eq_mem, decide_eq_true_eq] at hq ⊢
        simp [hq]
      · exact h

end EventUnit

/-- A property of the event unit that every occurrence keeps holds after any number of them. -/
theorem raiseAll_induction {P : EventUnit → Prop} (step : ∀ e d b, P e → P (e.raise b d)) (s : State) (ds : List Detail)
    (h : P s.events) : P (s.raiseAll ds).events := by
  have key : ∀ (b : Bool) (e : EventUnit), P e → P (ds.foldl (fun e d => e.raise b d) e) := by
    intro b
    induction ds with
    | nil => exact fun e h => h
    | cons d ds ih => exact fun e h => ih _ (step _ _ _ h)
  exact key _ _ h

@[simp] theorem raiseAll_mask (s : State) (ds : List Detail) : (s.raiseAll ds).events.mask = s.events.mask :=
  raiseAll_induction (P := fun e => e.mask = s.events.mask) (fun e d b h => by rw [EventUnit.raise_mask, h]) s ds rfl
@[simp] theorem raiseAll_mode (s : State) (ds : List Detail) : (s.raiseAll ds).events.mode = s.events.mode :=
  raiseAll_induction (P := fun e => e.mode = s.events.mode) (fun e d b h => by rw [EventUnit.raise_mode, h]) s ds rfl

/-- The detail record of a kind that does not occur stays. -/
theorem raiseAll_detail_other (s : State) (ds : List Detail) (k : Kind) (h : ∀ d ∈ ds, d.kind ≠ k) :
    (s.raiseAll ds).events.detail k = s.events.detail k := by
  induction ds generalizing s with
  | nil => rfl
  | cons d ds ih =>
    rw [State.raiseAll_cons, ih _ (fun x hx => h x (List.mem_cons_of_mem _ hx))]
    have hd : d.kind ≠ k := h d (List.mem_cons_self ..)
    simp only [EventUnit.detail, State.raise_events, EventUnit.raise_details]
    have hp : d.kind.prio.val ≠ k.prio.val := by
      revert hd
      generalize d.kind = j
      cases j <;> cases k <;> decide
    simp [Vector.getElem_set_ne _ _ hp]

/-- Kinds with the same priority are the same. -/
theorem Kind.prio_injective : Function.Injective Kind.prio := by
  intro j k
  cases j <;> cases k <;> decide

/-- After any number of occurrences the detail record of a kind is that of the last one of the kind (R170). -/
theorem raiseAll_detail (s : State) (ds : List Detail) (k : Kind) :
    (s.raiseAll ds).events.detail k = (ds.filter fun d => d.kind = k).getLast?.or (s.events.detail k) := by
  induction ds generalizing s with
  | nil => rfl
  | cons d ds ih =>
    rw [State.raiseAll_cons, ih, List.filter_cons]
    by_cases hd : d.kind = k
    · simp only [hd, decide_true, if_true, List.getLast?_cons]
      generalize (ds.filter fun d => decide (d.kind = k)).getLast? = x
      cases x with
      | none =>
        simp only [Option.getD_none, EventUnit.detail, State.raise_events, EventUnit.raise_details, hd]
        simp
      | some x => rfl
    · have hp : d.kind.prio.val ≠ k.prio.val := fun h => hd (Kind.prio_injective (Fin.ext h))
      simp only [hd, decide_false, Bool.false_eq_true, if_false, EventUnit.detail, State.raise_events, EventUnit.raise_details]
      rw [show (s.events.details.set d.kind.prio (some d))[k.prio] = s.events.details[k.prio] from Vector.getElem_set_ne _ _ hp]

/-- A counter that stops at its largest value, counted on n times. -/
theorem repeat_satInc (cap n m : Nat) (h : m ≤ cap) : Nat.repeat (satInc cap) n m = min cap (m + n) := by
  induction n with
  | zero => simp [Nat.repeat, h]
  | succ n ih =>
    rw [Nat.repeat, ih]
    unfold satInc
    split <;> omega

/-- After any number of occurrences the count of a kind has gone on by one for each of the kind (R169). -/
theorem raiseAll_count (s : State) (ds : List Detail) (k : Kind) :
    (s.raiseAll ds).events.count k = Nat.repeat (satInc 255) (ds.filter fun d => d.kind = k).length (s.events.count k) := by
  have step : ∀ n m, Nat.repeat (satInc 255) n (satInc 255 m) = satInc 255 (Nat.repeat (satInc 255) n m) := by
    intro n m
    induction n with
    | zero => rfl
    | succ n ih => rw [Nat.repeat, ih, Nat.repeat]
  induction ds generalizing s with
  | nil => rfl
  | cons d ds ih =>
    rw [State.raiseAll_cons, ih, List.filter_cons]
    by_cases hd : d.kind = k
    · simp only [hd, decide_true, if_true, List.length_cons, Nat.repeat, ← step]
      congr 1
      simp only [EventUnit.count, State.raise_events, EventUnit.raise_counts, hd]
      simp
    · have hp : d.kind.prio.val ≠ k.prio.val := fun h => hd (Kind.prio_injective (Fin.ext h))
      simp only [hd, decide_false, Bool.false_eq_true, if_false, EventUnit.count, State.raise_events, EventUnit.raise_counts]
      rw [show (s.events.counts.set d.kind.prio _)[k.prio] = s.events.counts[k.prio] from Vector.getElem_set_ne _ _ hp]

/-! ### Permit unit -/

/-- A debounce that is due (R160). -/
theorem debounceDue_iff (now : Time) (a : AuxLine) :
    a.debounceDue now = true ↔ a.input ≠ a.level ∧ 20 ≤ (now - a.since).toNat := by
  unfold AuxLine.debounceDue elapsedMs
  rw [Bool.and_eq_true, bne_iff_ne, decide_eq_true_iff]

/-- Some line contributes INTERLOCK (R161). -/
theorem any_interlocked_iff (aux : Vector AuxLine 4) :
    aux.toList.any AuxLine.interlocked = true ↔ ∃ i : Fin 4, aux[i].interlocked = true := by
  rw [List.any_eq_true]
  constructor
  · rintro ⟨a, ha, hi⟩
    rw [Vector.mem_toList_iff, Vector.mem_iff_getElem] at ha
    obtain ⟨i, hi', rfl⟩ := ha
    exact ⟨⟨i, hi'⟩, hi⟩
  · rintro ⟨i, hi⟩
    refine ⟨aux[i], ?_, hi⟩
    rw [Vector.mem_toList_iff, Vector.mem_iff_getElem]
    exact ⟨i.val, i.isLt, rfl⟩

/-- A line in mode INTERLOCK whose debounce is due takes its edge; any other line stays (R161). -/
theorem interlockEdge_eq (now : Time) (a : AuxLine) : a.interlockEdge now =
    if a.mode = .interlock ∧ a.input ≠ a.level ∧ 20 ≤ (now - a.since).toNat then { a with level := a.input, lastEdge := some now }
    else a := by
  simp only [AuxLine.interlockEdge, Bool.and_eq_true, decide_eq_true_eq, debounceDue_iff]
  rfl

/-- The edges of INTERLOCK-mode lines at one moment touch the permit unit and the event unit only. -/
theorem interlockEdges_frame (s : State) : { interlockEdges s with permit := s.permit, events := s.events } = s := rfl

/-- Every line after those edges. -/
theorem interlockEdges_aux (s : State) (i : Fin 4) : (interlockEdges s).permit.aux[i] = s.permit.aux[i].interlockEdge s.time := by
  show (Vector.ofFn fun i : Fin 4 => s.permit.aux[i].interlockEdge s.time)[i] = _
  simp

/-- Lines that contribute alike, line by line, give one INTERLOCK row. -/
theorem any_interlocked_congr {aux aux' : Vector AuxLine 4} (h : ∀ i : Fin 4, aux[i].interlocked = aux'[i].interlocked) :
    aux.toList.any AuxLine.interlocked = aux'.toList.any AuxLine.interlocked := by
  rw [Bool.eq_iff_iff, any_interlocked_iff, any_interlocked_iff]
  simp only [h]

/-- The three outcomes of supervision at a link reset leave the link port alone. -/
@[simp] theorem supervisionLinkReset_link (s : State) : s.supervisionLinkReset.link = s.link := by
  unfold State.supervisionLinkReset
  split <;> rfl
@[simp] theorem supervisionLinkReset_interval (s : State) :
    s.supervisionLinkReset.permit.sup.interval = s.permit.sup.interval := by
  unfold State.supervisionLinkReset
  split <;> rfl
@[simp] theorem supervisionLinkReset_aux (s : State) : s.supervisionLinkReset.permit.aux = s.permit.aux := by
  unfold State.supervisionLinkReset
  split <;> rfl
/-- Supervision at a link reset touches the permit unit and the event unit only. -/
theorem supervisionLinkReset_frame (s : State) : { s.supervisionLinkReset with permit := s.permit, events := s.events } = s := by
  unfold State.supervisionLinkReset
  split <;> rfl
/-- A good frame touches the permit unit and the event unit only (R164). -/
theorem goodFrame_frame (s : State) : { s.goodFrame with permit := s.permit, events := s.events } = s := by
  unfold State.goodFrame
  dsimp only
  split <;> rfl

end Sys2Proof.Machine
end

