-- ==== Sys2Proof/Laws/Occurrences.lean ====
section
/-! SUPPORT. The occurrences of one command, by kind: which block raises which kind, and what the event unit holds of each kind after a
scan completion, whatever the free order (R169). -/
namespace Sys2Proof.Machine

/-! ### What the event unit holds after a list of occurrences -/

/-- The occurrences between two states are those of the list: of each kind the last detail record, and the count gone on by their
number (R169, R170). -/
def State.reports (s t : State) (ds : List Detail) : Prop :=
  ∀ k, t.events.detail k = (ds.filter fun d => d.kind = k).getLast?.or (s.events.detail k)
    ∧ t.events.count k = Nat.repeat (satInc 255) (ds.filter fun d => d.kind = k).length (s.events.count k)

/-- Detail records and counts untouched are no occurrences. -/
theorem State.reports_nil {s t : State} (hd : t.events.details = s.events.details) (hc : t.events.counts = s.events.counts) :
    s.reports t [] := by
  intro k
  simp only [EventUnit.detail, EventUnit.count, hd, hc]
  exact ⟨rfl, rfl⟩

theorem State.raiseAll_reports (s : State) (ds : List Detail) : s.reports (s.raiseAll ds) ds :=
  fun k => ⟨raiseAll_detail s ds k, raiseAll_count s ds k⟩

theorem State.raise_reports (s : State) (d : Detail) : s.reports (s.raise d) [d] := s.raiseAll_reports [d]

/-- One list of occurrences after another. -/
theorem State.reports.trans {s t u : State} {ds es : List Detail} (h1 : s.reports t ds) (h2 : t.reports u es) :
    s.reports u (ds ++ es) := by
  intro k
  rw [(h2 k).1, (h2 k).2, (h1 k).1, (h1 k).2, List.filter_append]
  refine ⟨?_, ?_⟩
  · rw [List.getLast?_append, Option.or_assoc]
  · rw [List.length_append]
    generalize (es.filter fun d => decide (d.kind = k)).length = n
    induction n with
    | zero => rfl
    | succ n ih => exact congrArg (satInc 255) ih

/-- Where the list holds the one occurrence of its kind exactly when the condition holds. -/
theorem State.reports.occursIff {s t : State} {ds : List Detail} (h : s.reports t ds) {c : Prop} {d : Detail}
    (h1 : c → ds.filter (fun x => x.kind = d.kind) = [d]) (h2 : ¬c → ds.filter (fun x => x.kind = d.kind) = []) : s.occursIff t c d := by
  refine ⟨fun hc => ?_, fun hc => ?_⟩
  · have := h d.kind
    rw [h1 hc] at this
    exact this
  · have := h d.kind
    rw [h2 hc] at this
    exact this

theorem State.reports.occurred {s t : State} {ds : List Detail} (h : s.reports t ds) {d : Detail}
    (h1 : ds.filter (fun x => x.kind = d.kind) = [d]) : s.occurred t d :=
  (h.occursIff (c := True) (fun _ => h1) (fun h => absurd trivial h)).1 trivial

theorem State.reports.silent {s t : State} {ds : List Detail} (h : s.reports t ds) {k : Kind} (hk : ∀ d ∈ ds, d.kind ≠ k) :
    s.silent t k := by
  have := h k
  rw [List.filter_eq_nil_iff.2 fun d hd he => hk d hd (of_decide_eq_true he)] at this
  exact this

/-! ### Which block raises which kind -/

theorem kind_of_mem_channelBandEvents {before : Scanner} {scan : Scan} {d : Detail} (h : d ∈ channelBandEvents before scan) :
    d.kind = .channelBand := by
  unfold channelBandEvents at h
  obtain ⟨c, _, hc⟩ := List.mem_filterMap.1 h
  split at hc
  · rw [← Option.some.inj hc]; rfl
  · cases hc

theorem kind_of_mem_refFaultEvents {before : Scanner} {scan : Scan} {d : Detail} (h : d ∈ refFaultEvents before scan) :
    d.kind = .refFault := by
  unfold refFaultEvents at h
  split at h
  · rw [List.mem_singleton.1 h]; rfl
  · cases h

theorem kind_of_mem_overloadEvents {before after : Bool} {v : ScanView} {w : Option Int} {d : Detail}
    (h : d ∈ overloadEvents before after v w) : d.kind = .overload := by
  unfold overloadEvents at h
  split at h
  · split at h
    · rw [List.mem_singleton.1 h]; rfl
    · cases h
  · cases h

theorem kind_of_mem_opStep {o : OpStep} {d : Detail} (h : d ∈ o.events) : d.kind = .opDone := by
  unfold OpStep.events at h
  split at h
  · cases h
  · rw [List.mem_singleton.1 h]; rfl

theorem kind_of_mem_holdEvent {cause : HoldCause} {now : Time} {p : PermitUnit} {d : Detail} (h : d ∈ p.holdEvent cause now) :
    d.kind = .permitHold := by
  simp only [PermitUnit.holdEvent] at h
  split at h
  · rw [List.mem_singleton.1 h]; rfl
  · cases h

/-- A list of one kind, filtered by a kind. -/
theorem filter_kind_of_eq {ds : List Detail} {j : Kind} (h : ∀ d ∈ ds, d.kind = j) (k : Kind) :
    ds.filter (fun d => d.kind = k) = if k = j then ds else [] := by
  split
  · next hj => exact List.filter_eq_self.2 fun d hd => decide_eq_true (hj ▸ h d hd)
  · next hj => exact List.filter_eq_nil_iff.2 fun d hd he => hj (of_decide_eq_true he ▸ h d hd)

/-- The kinds that one finalization can raise. -/
def liftKinds : List Kind := [.recordsReady, .recordGap, .liftUnweighed, .payloadLimit, .liftDone]

theorem kind_of_mem_takeLift {q : RecordQueue} {r : LiftRecord} {now : Time} {d : Detail} (h : d ∈ (q.takeLift r now).2.1) :
    d.kind = .recordsReady ∨ d.kind = .recordGap := by
  unfold RecordQueue.takeLift at h
  split at h
  · simp only [admissionReady, Bool.false_eq_true, if_false] at h
    split at h
    · split at h
      · rw [List.mem_singleton.1 h]; exact .inl rfl
      · cases h
    · cases h
  · dsimp only at h
    split at h
    · cases h
    · rw [List.mem_singleton.1 h]; exact .inr rfl

/-- What the queue raises for a lift record or an adjustment record: RECORDS_READY where the admission reaches the threshold (R134),
RECORD_GAP at a first fold (R130). -/
theorem takeLift_events (q : RecordQueue) (r : LiftRecord) (now : Time) : (q.takeLift r now).2.1 =
    if q.lifts < 30 then
      if q.mode = .polled ∧ q.records.length + 1 = q.threshold then [.recordsReady .threshold (q.lifts + 1) q.loads now] else []
    else if q.gap.lifts = 0 then [.recordGap r.loadNumber r.liftNumber r.direction q.lifts q.loads now] else [] := by
  unfold RecordQueue.takeLift
  split
  · by_cases h : q.mode = .polled <;> simp [admissionReady, RecordQueue.lifts, RecordQueue.loads, Record.isLift, h]
  · by_cases h : q.gap.lifts = 0 <;> simp [Gap.nonEmpty, h]

/-- What the queue raises for a load record (R134). -/
theorem takeLoad_events (q : RecordQueue) (r : LoadRecord) (now : Time) : (q.takeLoad r now).2 =
    if q.mode = .polled then [.recordsReady .load q.lifts (q.loads + 1) now] else [] := by
  simp [RecordQueue.takeLoad, admissionReady, RecordQueue.lifts, RecordQueue.loads, Record.isLift]

theorem kind_of_mem_unweighedEvents {lr : LiftRecord} {r : WindowResult} {d : Detail} (h : d ∈ unweighedEvents lr r) :
    d.kind = .liftUnweighed := by
  unfold unweighedEvents at h
  split at h
  · rw [List.mem_singleton.1 h]; rfl
  · cases h

theorem kind_of_mem_payloadEvents {before after : Tally} {sort : Fin 12} {dir : Direction} {applied : Int} {now : Time} {d : Detail}
    (h : d ∈ payloadEvents before after sort dir applied now) : d.kind = .payloadLimit := by
  unfold payloadEvents at h
  split at h
  · rw [List.mem_singleton.1 h]; rfl
  · cases h

theorem kind_of_mem_finalize {l : Lift} {rel : Release} {now : Time} {s : State} {d : Detail} (h : d ∈ (finalize l rel now s).2) :
    d.kind ∈ liftKinds := by
  simp only [finalize, List.mem_append, List.mem_singleton] at h
  rcases h with ((h | h) | h) | h
  · rcases kind_of_mem_takeLift h with h | h <;> rw [h] <;> decide
  · rw [kind_of_mem_unweighedEvents h]; decide
  · rw [kind_of_mem_payloadEvents h]; decide
  · subst h
    show Kind.liftDone ∈ liftKinds
    decide

/-- The occurrences of a kind at a finalization (R106). -/
theorem filter_finalize (l : Lift) (rel : Release) (now : Time) (s : State) (k : Kind) :
    (finalize l rel now s).2.filter (fun d => d.kind = k) =
      let r := s.weigh.result
      let lr := liftRecord s.tally l rel now r
      (s.records.takeLift lr s.time).2.1.filter (fun d => d.kind = k)
        ++ (if k = .liftUnweighed then unweighedEvents lr r else [])
        ++ (if k = .payloadLimit then
            payloadEvents s.tally (s.tally.apply l.sort lr.direction r.weight) l.sort lr.direction lr.applied now else [])
        ++ (if k = .liftDone then [liftDoneEvent lr r] else []) := by
  have h : ∀ d ∈ [liftDoneEvent (liftRecord s.tally l rel now s.weigh.result) s.weigh.result], d.kind = .liftDone := by
    intro d hd
    rw [List.mem_singleton.1 hd]
    rfl
  simp only [finalize, List.filter_append, filter_kind_of_eq fun _ => kind_of_mem_unweighedEvents,
    filter_kind_of_eq fun _ => kind_of_mem_payloadEvents, filter_kind_of_eq h]

theorem kind_of_mem_track {v : ScanView} {s : State} {d : Detail} (h : d ∈ (track v s).2) : d.kind ∈ liftKinds := by
  unfold track trackGripping trackReleasing at h
  split at h
  · split at h <;> cases h
  · split at h
    · split at h <;> first | cases h | (split at h <;> first | exact kind_of_mem_finalize h | cases h)
    · cases h

section
variable (run : ScanRun) (raw : Vector (BitVec 16) 12) (s : State)

/-- The occurrences of one kind at a completion all come from one block, so their order is that block's (R169). -/
theorem completeScan_events_filter (k : Kind) :
    (merged s.free (afterScan run raw s).2).filter (fun d => d.kind = k) = (afterScan run raw s).2.flatten.filter (fun d => d.kind = k) := by
  apply filter_merged
  have key : ∀ (a b : List Detail) (ks ls : List Kind), (∀ d ∈ a, d.kind ∈ ks) → (∀ d ∈ b, d.kind ∈ ls) → ks.all (fun j => j ∉ ls) = true →
      a.filter (fun d => d.kind = k) = [] ∨ b.filter (fun d => d.kind = k) = [] := by
    intro a b ks ls ha hb hd
    by_cases hk : k ∈ ks
    · right
      rw [List.filter_eq_nil_iff]
      intro d hm he
      have := List.all_eq_true.1 hd k hk
      rw [decide_eq_true_eq] at this he
      exact this (he ▸ hb d hm)
    · left
      rw [List.filter_eq_nil_iff]
      intro d hm he
      rw [decide_eq_true_eq] at he
      exact hk (he ▸ ha d hm)
  have h1 : ∀ d ∈ channelBandEvents s.scanner (scanView raw s).scan ++ refFaultEvents s.scanner (scanView raw s).scan,
      d.kind ∈ [Kind.channelBand, .refFault] := by
    intro d hd
    rcases List.mem_append.1 hd with hd | hd
    · rw [kind_of_mem_channelBandEvents hd]; decide
    · rw [kind_of_mem_refFaultEvents hd]; decide
  have one : ∀ {ds : List Detail} {j : Kind}, (∀ d ∈ ds, d.kind = j) → ∀ d ∈ ds, d.kind ∈ [j] :=
    fun h d hd => List.mem_singleton.2 (h d hd)
  have h2 := fun a b c e => one fun d => @kind_of_mem_overloadEvents a b c e d
  have h3 := fun v u d => @kind_of_mem_track v u d
  have h4 := fun o => one fun d => @kind_of_mem_opStep o d
  have h5 := fun c n p => one fun d => @kind_of_mem_holdEvent c n p d
  unfold afterScan
  simp only [List.pairwise_cons, List.mem_cons, List.not_mem_nil, or_false, forall_eq_or_imp, forall_eq, List.Pairwise.nil, and_true,
    false_imp_iff, imp_true_iff]
  exact ⟨⟨key _ _ _ _ h1 (h2 _ _ _ _) rfl, key _ _ _ _ h1 (h3 _ _) rfl, key _ _ _ _ h1 (h4 _) rfl, key _ _ _ _ h1 (h5 _ _ _) rfl⟩,
    ⟨key _ _ _ _ (h2 _ _ _ _) (h3 _ _) rfl, key _ _ _ _ (h2 _ _ _ _) (h4 _) rfl, key _ _ _ _ (h2 _ _ _ _) (h5 _ _ _) rfl⟩,
    ⟨key _ _ _ _ (h3 _ _) (h4 _) rfl, key _ _ _ _ (h3 _ _) (h5 _ _ _) rfl⟩, key _ _ _ _ (h4 _) (h5 _ _ _) rfl⟩

/-- The occurrences of a completion, kind by kind. -/
theorem completeScan_reports : s.reports (completeScan run raw s) (afterScan run raw s).2.flatten := by
  intro k
  rw [← completeScan_events_filter]
  unfold completeScan
  dsimp only
  rw [raiseAll_detail, raiseAll_count]
  simp only [afterScan, track_events, takeWeight_events, takeGeometry_events]
  exact ⟨trivial, trivial⟩

/-- The occurrences of a completion, one list for each block, in the blocks' own terms. -/
theorem afterScan_events : (afterScan run raw s).2 =
    let v := scanView raw s
    let w := scanWeight v s
    [channelBandEvents s.scanner (completedScan raw s) ++ refFaultEvents s.scanner (completedScan raw s),
      overloadEvents s.weigh.overload (s.weigh.takeScan v w).overload v w,
      (track v (beforeTrack run raw s)).2,
      (opAtScan s.op.slot run.isOnce s.weigh.params (completedScan raw s) w (windowAfter s.weigh v w)).events,
      PermitUnit.holdEvent .scan s.time { s.permit with
        rows := scanRows v (completedZones raw s) (completeScan run raw s).weigh.overload s.permit.rows }] := by
  rw [completeScan_weigh]
  simp only [afterScan, beforeTrack, takeWeight_weigh, takeGeometry_weigh, scanView_scan, track_zones, takeWeight_zones,
    takeGeometry_zones, track_permit, takeWeight_permit, takeGeometry_permit]
  rfl

/-- The occurrences of a kind at a completion, by the block that raises the kind. -/
theorem filter_scanEvents (k : Kind) : (afterScan run raw s).2.flatten.filter (fun d => d.kind = k) =
    let v := scanView raw s
    let w := scanWeight v s
    (if k = .channelBand then channelBandEvents s.scanner (completedScan raw s) else [])
      ++ (if k = .refFault then refFaultEvents s.scanner (completedScan raw s) else [])
      ++ (if k = .overload then overloadEvents s.weigh.overload (s.weigh.takeScan v w).overload v w else [])
      ++ (track v (beforeTrack run raw s)).2.filter (fun d => d.kind = k)
      ++ (if k = .opDone then
          (opAtScan s.op.slot run.isOnce s.weigh.params (completedScan raw s) w (windowAfter s.weigh v w)).events else [])
      ++ (if k = .permitHold then PermitUnit.holdEvent .scan s.time { s.permit with
          rows := scanRows v (completedZones raw s) (completeScan run raw s).weigh.overload s.permit.rows } else []) := by
  rw [afterScan_events]
  simp only [List.flatten_cons, List.flatten_nil, List.append_nil, List.filter_append, List.append_assoc,
    filter_kind_of_eq fun _ => kind_of_mem_channelBandEvents, filter_kind_of_eq fun _ => kind_of_mem_refFaultEvents,
    filter_kind_of_eq fun _ => kind_of_mem_overloadEvents, filter_kind_of_eq fun _ => kind_of_mem_opStep,
    filter_kind_of_eq fun _ => kind_of_mem_holdEvent]

/-- The tracker raises nothing of a kind that is no kind of a finalization. -/
theorem filter_track_of_not_mem {k : Kind} (h : k ∉ liftKinds) (v : ScanView) (u : State) :
    (track v u).2.filter (fun d => d.kind = k) = [] :=
  List.filter_eq_nil_iff.2 fun _ hd he => h (of_decide_eq_true he ▸ kind_of_mem_track hd)

end

/-! ### PERMIT_HOLD (R157) -/

/-- An evaluation's report, raised by itself or among occurrences of other kinds, is what R157 asks for. -/
theorem State.reports.holdReported {cause : HoldCause} {s t : State} {p : PermitUnit} {ds : List Detail} (h : s.reports t ds)
    (ho : p.outputs = s.permit.outputs) (ht : t.permit = p.evaluate)
    (hf : ds.filter (fun d => d.kind = .permitHold) = p.holdEvent cause s.time) : s.holdReported cause t := by
  have hw : wentToHold s t = p.goingToHold := by
    rw [wentToHold, ht, ← ho]
    rfl
  have hr : t.permit.rows = p.rows := by rw [ht]; rfl
  unfold State.holdReported
  rw [hw, hr]
  unfold PermitUnit.holdEvent at hf
  dsimp only at hf
  refine h.occursIff (fun hc => ?_) (fun hc => ?_)
  · rw [if_pos hc] at hf
    exact hf
  · rw [if_neg hc] at hf
    exact hf

/-- An evaluation of its own reports what R157 asks for. -/
theorem evaluate_holdReported {cause : HoldCause} {s u : State} (ho : u.permit.outputs = s.permit.outputs) (ht : u.time = s.time)
    {ds : List Detail} (h : s.reports u ds) (hk : ∀ d ∈ ds, d.kind ≠ .permitHold) : s.holdReported cause (u.evaluate cause) := by
  have h2 : u.reports (u.evaluate cause) (u.permit.holdEvent cause u.time) :=
    State.raiseAll_reports { u with permit := u.permit.evaluate } (u.permit.holdEvent cause u.time)
  refine (h.trans h2).holdReported ho rfl ?_
  rw [List.filter_append, filter_kind_of_eq fun d => @kind_of_mem_holdEvent cause u.time u.permit d, if_pos rfl, ht,
    List.filter_eq_nil_iff.2 fun d hd he => hk d hd (of_decide_eq_true he)]
  rfl

/-- A scan completion reports what R157 asks for. -/
theorem completeScan_holdReported (run : ScanRun) (raw : Vector (BitVec 16) 12) (s : State) :
    s.holdReported .scan (completeScan run raw s) := by
  have hk : Kind.permitHold ∉ liftKinds := by decide
  have hf := filter_scanEvents run raw s .permitHold
  dsimp only at hf
  rw [filter_track_of_not_mem hk] at hf
  exact (completeScan_reports run raw s).holdReported
    (p := { s.permit with
      rows := scanRows (scanView raw s) (completedZones raw s) (completeScan run raw s).weigh.overload s.permit.rows })
    rfl (completeScan_permit run raw s) hf

/-! ### Aborting (R141 to R143) -/

theorem kind_of_mem_abortEvents {cause : AbortCause} {s : State} {d : Detail} (h : d ∈ abortEvents cause s) : d.kind = .opDone := by
  unfold abortEvents at h
  cases ha : abortDetail cause s with
  | none => rw [ha] at h; cases h
  | some x =>
    rw [ha] at h
    rw [List.mem_singleton.1 h]
    rfl

/-- What an abort is: the blocks as it leaves them, and its one OP_DONE among whatever else occurs. -/
theorem State.reports.aborts {cause : AbortCause} {s t : State} {ds : List Detail} (h : s.reports t ds)
    (hf : ds.filter (fun d => d.kind = .opDone) = abortEvents cause s) (ho : t.op = (abortState cause s).op)
    (hw : t.weigh = (abortState cause s).weigh) (hc : t.scanner = (abortState cause s).scanner) : s.aborts cause t := by
  have hop := ho.trans (abortState_op cause s)
  have he : ∀ x, abortDetail cause s = some x → s.occurred t (.opDone x) := fun x hx =>
    h.occurred (hf.trans (by unfold abortEvents; rw [hx]; rfl))
  refine ⟨fun hs => ?_, fun count sum skipped hs => ?_, fun mass hs => ?_, fun hs => ?_, ?_, ?_⟩
  · rw [hs] at hop
    have hs' : s.silent t .opDone := by
      have h2 := h .opDone
      rw [hf] at h2
      unfold abortEvents abortDetail at h2
      rw [hs] at h2
      exact h2
    exact ⟨hop, hs'⟩
  · rw [hs] at hop
    exact ⟨hop, he _ (by unfold abortDetail; rw [hs])⟩
  · rw [hs] at hop
    exact ⟨hop, he _ (by unfold abortDetail; rw [hs])⟩
  · rw [hs] at hop
    exact ⟨hop, he _ (by unfold abortDetail; rw [hs])⟩
  · rw [hw]
    unfold abortState abortDetail
    cases hs : s.op.slot with
    | none => simp
    | some o =>
      cases o with
      | zero _ _ _ => simp [Op.kind]
      | scanOnce => simp [Op.kind]
      | span mass =>
        simp only [Weigh.abortSpan, Option.map_some, Op.kind, true_and]
        split <;> rfl
  · rw [hc]
    unfold abortState abortDetail
    cases hs : s.op.slot with
    | none => simp
    | some o =>
      cases o with
      | zero _ _ _ => simp
      | span _ => simp
      | scanOnce =>
        simp only [Scanner.stopOnce, true_and]
        cases hr : s.scanner.running with
        | none => simp [← hr]
        | some r =>
          cases hl : r.loaded with
          | none => simp [ScanRun.isOnce, hl]
          | some n =>
            simp only [ScanRun.isOnce, hl, Option.any_some, Option.isNone_some, Bool.false_eq_true, if_false]
            rw [← hr]

/-- An abort by OP_ABORT or by supervision is one. -/
theorem State.abortOp_aborts (cause : AbortCause) (s : State) : s.aborts cause (s.abortOp cause) := by
  have h : s.reports (s.abortOp cause) (abortEvents cause s) := by
    have h0 : s.reports (abortState cause s) [] := State.reports_nil (by rw [abortState_events]) (by rw [abortState_events])
    exact h0.trans ((abortState cause s).raiseAll_reports (abortEvents cause s))
  exact h.aborts ((filter_kind_of_eq (fun _ => kind_of_mem_abortEvents) _).trans (if_pos rfl)) rfl rfl rfl

/-! ### Link reset (R179, R191) -/

/-- Repending dropped kinds touches no detail record and no count. -/
theorem EventUnit.linkReset_details (cause : StartCause) (keep : Bool) (time : Time) (e : EventUnit) :
    (e.linkReset cause keep time).details = e.details.set Kind.restarted.prio (some (.restarted cause keep time))
      ∧ (e.linkReset cause keep time).counts = e.counts.set Kind.restarted.prio (satInc 255 (e.count .restarted)) := by
  have hr := EventUnit.repend_frame e e.queue
  have hd : (e.repend e.queue).details = e.details := by
    have h := congrArg EventUnit.details hr
    exact h
  have hc : (e.repend e.queue).counts = e.counts := by
    have h := congrArg EventUnit.counts hr
    exact h
  unfold EventUnit.linkReset
  dsimp only
  rw [EventUnit.settle_details, EventUnit.settle_counts]
  unfold EventUnit.occur
  cases keep <;> simp [EventUnit.count, hd, hc, Detail.kind]

/-- Supervision raises nothing at a link reset but the PERMIT_HOLD of its evaluation. -/
theorem supervisionLinkReset_reports (s : State) : ∃ ds, s.reports s.supervisionLinkReset ds ∧ ∀ d ∈ ds, d.kind = .permitHold := by
  unfold State.supervisionLinkReset
  split
  · exact ⟨[], State.reports_nil rfl rfl, fun _ h => absurd h List.not_mem_nil⟩
  · exact ⟨[], State.reports_nil rfl rfl, fun _ h => absurd h List.not_mem_nil⟩
  · exact ⟨PermitUnit.holdEvent .supervision s.time _, State.raiseAll_reports { s with permit := _ } _, fun _ => kind_of_mem_holdEvent⟩
  · exact ⟨[], State.reports_nil rfl rfl, fun _ h => absurd h List.not_mem_nil⟩

theorem kind_of_mem_settingReady {cause : ReadyCause} {q : RecordQueue} {now : Time} {d : Detail} (h : d ∈ settingReady cause q now) :
    d.kind = .recordsReady := by
  unfold settingReady at h
  split at h
  · rw [List.mem_singleton.1 h]; rfl
  · cases h

/-- The occurrences of a link reset, kind by kind: RESTARTED, OP_DONE, RECORDS_READY; PERMIT_HOLD is supervision's. -/
theorem linkReset_reports (cause : StartCause) (s : State) : ∃ ds, s.reports (linkReset cause s) ds
    ∧ ∀ k, k ≠ .permitHold → ds.filter (fun d => d.kind = k) = (if k = .restarted then [.restarted cause s.link.keep s.time] else [])
      ++ (if k = .opDone then abortEvents .linkReset s else [])
      ++ (if k = .recordsReady then settingReady .reset (s.records.linkReset s.link.keep) s.time else []) := by
  obtain ⟨ds, h2, hk⟩ := supervisionLinkReset_reports (linkResetBlocks cause s)
  have h1 : s.reports (linkResetBlocks cause s) [.restarted cause s.link.keep s.time] := by
    intro k
    have he := EventUnit.linkReset_details cause s.link.keep s.time s.events
    have hu := State.raise_reports s (.restarted cause s.link.keep s.time) k
    simp only [EventUnit.detail, EventUnit.count, State.raise_events, EventUnit.raise_details, EventUnit.raise_counts] at hu
    simp only [EventUnit.detail, EventUnit.count, linkResetBlocks, he.1, he.2]
    exact hu
  have hr : (linkResetBlocks cause s).records = s.records.linkReset s.link.keep := rfl
  have h3 := State.raiseAll_reports ({ (linkResetBlocks cause s).supervisionLinkReset with free := s.free + 1 } : State)
    (merged s.free [abortEvents .linkReset s, settingReady .reset (linkResetBlocks cause s).records s.time])
  have h4 : (linkResetBlocks cause s).supervisionLinkReset.reports (linkReset cause s)
      (merged s.free [abortEvents .linkReset s, settingReady .reset (s.records.linkReset s.link.keep) s.time]) := fun k => h3 k
  have h5 : (linkResetBlocks cause s).supervisionLinkReset.reports (linkReset cause s)
      (abortEvents .linkReset s ++ settingReady .reset (s.records.linkReset s.link.keep) s.time) := by
    intro k
    have := h4 k
    rw [filter_merged] at this
    · simpa using this
    · simp only [List.pairwise_cons, List.mem_cons, List.not_mem_nil, or_false, forall_eq, List.Pairwise.nil, and_true, false_imp_iff,
        imp_true_iff, filter_kind_of_eq fun _ => kind_of_mem_abortEvents, filter_kind_of_eq fun _ => kind_of_mem_settingReady]
      by_cases hk : k = .opDone
      · exact .inr (if_neg (by rw [hk]; decide))
      · exact .inl (if_neg hk)
  refine ⟨_, (h1.trans h2).trans h5, fun k hne => ?_⟩
  have h6 : ∀ d ∈ [Detail.restarted cause s.link.keep s.time], d.kind = .restarted := fun d hd => by rw [List.mem_singleton.1 hd]; rfl
  simp only [List.filter_append, filter_kind_of_eq h6, filter_kind_of_eq hk, filter_kind_of_eq fun _ => kind_of_mem_abortEvents,
    filter_kind_of_eq fun _ => kind_of_mem_settingReady, if_neg hne, List.nil_append, List.append_assoc]

/-! ### Places in the notice queue (R173, R175) -/

namespace EventUnit

theorem raised_getLsbD (e : EventUnit) (k : Kind) : e.raised.getLsbD k.prio.val = (e.isPending k && e.isEnabled k) := BitVec.getLsbD_and

theorem mem_all (k : Kind) : k ∈ Kind.all := by cases k <;> decide

/-- The raised set is empty exactly when no enabled kind is pending. -/
theorem raised_eq_zero_iff (e : EventUnit) : e.raised = 0 ↔ ∀ k, e.isPending k = true → e.isEnabled k = false := by
  constructor
  · intro h k hp
    have := raised_getLsbD e k
    rw [h, hp] at this
    simpa using this.symm
  · intro h
    apply BitVec.eq_of_getLsbD_eq
    intro i hi
    obtain ⟨k, rfl⟩ : ∃ k : Kind, k.prio.val = i := by
      have : ∀ j : Fin 16, ∃ k ∈ Kind.all, k.prio = j := by decide
      obtain ⟨k, _, hk⟩ := this ⟨i, hi⟩
      exact ⟨k, congrArg Fin.val hk⟩
    rw [raised_getLsbD]
    cases hp : e.isPending k with
    | false => simp
    | true => rw [h k hp]; simp

theorem waits_iff (e : EventUnit) (k : Kind) : e.waits k ↔ (e.raised.getLsbD k.prio.val && !e.hasNotice k) = true := by
  rw [raised_getLsbD, Bool.and_eq_true, Bool.and_eq_true, Bool.not_eq_true', and_assoc]
  rfl

/-- No kind is given a place exactly when none waits. -/
theorem nextToQueue_eq_none (e : EventUnit) : e.nextToQueue = none ↔ ∀ k, ¬e.waits k := by
  unfold nextToQueue
  rw [List.find?_eq_none]
  exact ⟨fun h k hw => h k (mem_all k) ((waits_iff e k).1 hw), fun h k _ hw => h k ((waits_iff e k).2 hw)⟩

/-- The kind given a place is the waiting kind of the highest priority (R173). -/
theorem nextToQueue_eq_some {e : EventUnit} {k : Kind} (h : e.waits k) (first : ∀ j : Kind, j.prio < k.prio → ¬e.waits j) :
    e.nextToQueue = some k := by
  cases hn : e.nextToQueue with
  | none => exact absurd h ((nextToQueue_eq_none e).1 hn k)
  | some j =>
    unfold nextToQueue at hn
    have hj : e.waits j := (waits_iff e j).2 (List.find?_some hn :)
    have least : ∀ l : List Kind, l.Pairwise (fun a b => a.prio < b.prio) → k ∈ l →
        l.find? (fun k => e.raised.getLsbD k.prio.val && !e.hasNotice k) = some j → j.prio ≤ k.prio := by
      intro l
      induction l with
      | nil => intro _ hk; cases hk
      | cons a l ih =>
        intro hp hk hf
        rw [List.pairwise_cons] at hp
        rw [List.find?_cons] at hf
        split at hf
        · cases hf
          rcases List.mem_cons.1 hk with rfl | hk
          · exact Nat.le_refl _
          · exact Nat.le_of_lt (hp.1 _ hk)
        · next ha =>
          rcases List.mem_cons.1 hk with rfl | hk
          · rw [(waits_iff e k).1 h] at ha; cases ha
          · exact ih hp.2 hk hf
    have h1 := least Kind.all (by decide) (mem_all k) hn
    have h2 : ¬j.prio < k.prio := fun hl => first j hl hj
    have h3 : j.prio = k.prio := Fin.ext (Nat.le_antisymm h1 (Nat.le_of_not_lt h2))
    exact congrArg some (Kind.prio_injective h3)

/-- The filling stops where the queue is full or no kind waits. -/
theorem fill_stops {e : EventUnit} (h : 8 ≤ e.queue.length ∨ ∀ k, ¬e.waits k) (n : Nat) : e.fill n = e := by
  cases n with
  | zero => rfl
  | succ n =>
    unfold fill
    split
    · rfl
    · next hl =>
      rw [(nextToQueue_eq_none e).2 (h.resolve_left hl)]

/-- The filling goes on with the kind that is given the place. -/
theorem fill_next {e : EventUnit} {k : Kind} (hl : e.queue.length < 8) (hk : e.nextToQueue = some k) (n : Nat) :
    e.fill (n + 1) = ({ e.clearPending k with queue := e.queue ++ [.event k] } : EventUnit).fill n := by
  rw [fill, if_neg (Nat.not_le.2 hl), hk]

/-- Fuel beyond the free places changes nothing. -/
theorem fill_succ (n : Nat) (e : EventUnit) (h : 8 ≤ n + e.queue.length) : e.fill (n + 1) = e.fill n := by
  induction n generalizing e with
  | zero => exact fill_stops (.inl (by omega)) 1
  | succ n ih =>
    by_cases hl : 8 ≤ e.queue.length
    · rw [fill_stops (.inl hl), fill_stops (.inl hl)]
    · cases hk : e.nextToQueue with
      | none =>
        have hw := (nextToQueue_eq_none e).1 hk
        rw [fill_stops (.inr hw), fill_stops (.inr hw)]
      | some k =>
        rw [fill_next (by omega) hk, fill_next (by omega) hk]
        apply ih
        rw [List.length_append, List.length_singleton]
        omega

/-- Settling in ITEMIZED (R173). -/
theorem settle_itemized {e : EventUnit} (hm : e.mode = .itemized) (b : Bool) :
    e.settle b = { e.fill 8 with armed := if (e.fill 8).raised = 0 then true else (e.fill 8).armed } := by
  unfold settle
  split
  · dsimp only
    split <;> rfl
  · next hs => rw [hm] at hs; cases hs

/-- Settling in SUMMARY (R175). -/
theorem settle_summary {e : EventUnit} (hm : e.mode = .summary) (b : Bool) :
    e.settle b = if e.raised = 0 then { e with armed := true, queue := withdrawAttention b e.queue }
      else if e.armed = true ∧ Notice.attention ∉ e.queue then { e with armed := false, queue := e.queue ++ [.attention] } else e := by
  unfold settle
  split
  · next hs => rw [hm] at hs; cases hs
  · simp only [Bool.and_eq_true, Bool.not_eq_true', List.contains_eq_mem, decide_eq_false_iff_not]

/-- In ITEMIZED, with the queue full or no kind waiting, settling arms the attention flag at an empty raised set and does nothing else. -/
theorem settle_stops {e : EventUnit} (hm : e.mode = .itemized) (h : 8 ≤ e.queue.length ∨ ∀ k, ¬e.waits k) (b : Bool) :
    e.settle b = { e with armed := if e.raised = 0 then true else e.armed } := by
  rw [settle_itemized hm, fill_stops h]

/-- With as much fuel as there are free places, filling ends with the queue full or no kind waiting. -/
theorem fill_settled (n : Nat) (e : EventUnit) (h : 8 ≤ n + e.queue.length) :
    8 ≤ (e.fill n).queue.length ∨ ∀ k, ¬(e.fill n).waits k := by
  induction n generalizing e with
  | zero => exact .inl (by rw [fill]; omega)
  | succ n ih =>
    by_cases hl : 8 ≤ e.queue.length
    · rw [fill_stops (.inl hl)]
      exact .inl hl
    · cases hk : e.nextToQueue with
      | none =>
        have hw := (nextToQueue_eq_none e).1 hk
        rw [fill_stops (.inr hw)]
        exact .inr hw
      | some k =>
        rw [fill_next (by omega) hk]
        apply ih
        rw [List.length_append, List.length_singleton]
        omega

/-- What settles is settled. -/
theorem settle_settled (b : Bool) (e : EventUnit) : (e.settle b).settled := by
  cases hm : e.mode with
  | itemized =>
    have hm' : (e.fill 8).mode = .itemized := (congrArg EventUnit.mode (fill_frame 8 e)).trans hm
    rw [settle_itemized hm]
    refine ⟨fun _ => fill_settled 8 e (Nat.le_add_right ..), fun h => ?_, fun h => ?_, fun h => if_pos h⟩
    · exact absurd (hm'.symm.trans h) (by decide)
    · exact absurd (hm'.symm.trans h) (by decide)
  | summary =>
    rw [settle_summary hm]
    split
    · next hr =>
      refine ⟨fun h => absurd (hm.symm.trans h) (by decide), fun _ h => absurd hr h, fun _ _ hq => ?_, fun _ => rfl⟩
      have hf : Notice.attention ∉ e.queue.filter (· != .attention) := by simp
      have hd : Notice.attention ∉ (e.queue.filter (· != .attention)).drop 1 := fun h => hf (List.mem_of_mem_drop h)
      revert hq
      unfold withdrawAttention
      split
      · simp
      · exact hd
    · next hr =>
      split
      · exact ⟨fun h => absurd (hm.symm.trans h) (by decide), fun _ _ _ => by simp, fun _ h => absurd h hr, fun h => absurd h hr⟩
      · next hj =>
        refine ⟨fun h => absurd (hm.symm.trans h) (by decide), fun _ _ ha => ?_, fun _ h => absurd h hr, fun h => absurd h hr⟩
        exact Classical.not_not.1 fun hq => hj ⟨ha, hq⟩

/-- In ITEMIZED a waiting kind of the highest priority takes a free place, and settling goes on (R173). -/
theorem settle_next {e : EventUnit} {k : Kind} (hm : e.mode = .itemized) (hl : e.queue.length < 8) (h : e.waits k)
    (first : ∀ j : Kind, j.prio < k.prio → ¬e.waits j) (b : Bool) :
    e.settle b = (({ e with queue := e.queue ++ [.event k] } : EventUnit).clearPending k).settle b := by
  have hf : e.fill 8 = (({ e with queue := e.queue ++ [.event k] } : EventUnit).clearPending k).fill 8 := by
    rw [fill_next hl (nextToQueue_eq_some h first) 7, ← fill_succ 7]
    · rfl
    · rw [List.length_append, List.length_singleton]
      omega
  rw [settle_itemized hm, settle_itemized (e := ({ e with queue := e.queue ++ [.event k] } : EventUnit).clearPending k) hm, hf]

end EventUnit

/-! ### The event unit at a link reset (R179) -/

/-- The event unit when RESTARTED has occurred at a link reset, before it settles (steps 1 to 4 of R179). -/
theorem EventUnit.linkReset_eq (cause : StartCause) (keep : Bool) (now : Time) (old : EventUnit) :
    ∃ e : EventUnit, old.linkReset cause keep now = e.settle false ∧ e.queue = [] ∧ e.armed = true
      ∧ e.mode = (if keep then old.mode else .itemized) ∧ e.mask = (if keep then old.mask else powerOnMask)
      ∧ (∀ k, e.isPending k = (old.isPending k || old.hasNotice k || k == .restarted))
      ∧ (∀ k, e.count k = if k = .restarted then satInc 255 (old.count k) else old.count k)
      ∧ ∀ k, e.detail k = if k = .restarted then some (.restarted cause keep now) else old.detail k := by
  have hr := repend_frame old old.queue
  have hf : ∀ {α : Type} (f : EventUnit → α), (∀ u p, f { u with pending := p } = f u) → f (old.repend old.queue) = f old := fun f h => by
    rw [← h (old.repend old.queue) old.pending, hr]
  have hm : (old.repend old.queue).mode = old.mode := hf EventUnit.mode fun _ _ => rfl
  have hk : (old.repend old.queue).mask = old.mask := hf EventUnit.mask fun _ _ => rfl
  have hc : (old.repend old.queue).counts = old.counts := hf EventUnit.counts fun _ _ => rfl
  have hd : (old.repend old.queue).details = old.details := hf EventUnit.details fun _ _ => rfl
  have hp : ∀ k, (old.repend old.queue).isPending k = (old.isPending k || old.hasNotice k) := by
    intro k
    rw [Bool.eq_iff_iff, isPending_repend, Bool.or_eq_true, hasNotice, List.contains_eq_mem, decide_eq_true_eq]
  have hn : ∀ k : Kind, k ≠ .restarted → ¬Kind.restarted.prio.val = k.prio.val :=
    fun k h he => h (Kind.prio_injective (Fin.ext he.symm))
  refine ⟨_, rfl, ?_⟩
  cases keep
  all_goals
    refine ⟨rfl, rfl, ?_, ?_, fun k => ?_, fun k => ?_, fun k => ?_⟩
    · first | exact hm | rfl
    · first | exact hk | rfl
    · refine (isPending_setPending _ _ k).trans ?_
      rw [← hp k]
      rfl
    · by_cases h : k = .restarted
      · subst h; simp [occur, count, Detail.kind, hc]
      · simp only [occur, count, Detail.kind, hc, if_neg h]
        exact Vector.getElem_set_ne _ _ (hn k h)
    · by_cases h : k = .restarted
      · subst h; simp [occur, detail, Detail.kind]
      · simp only [occur, detail, Detail.kind, hd, if_neg h]
        exact Vector.getElem_set_ne _ _ (hn k h)

/-- What the event unit is after a link reset: its own steps, and then what the other blocks raise because of it. -/
theorem linkReset_events (cause : StartCause) (s : State) : ∃ later : List Detail,
    (∀ d ∈ later, d.kind ∈ [Kind.opDone, .recordsReady, .permitHold])
      ∧ (linkReset cause s).events = later.foldl (EventUnit.raise false) (s.events.linkReset cause s.link.keep s.time) := by
  have hs : (linkResetBlocks cause s).sending = false := rfl
  have h1 : ∃ ds : List Detail, (∀ d ∈ ds, d.kind = .permitHold)
      ∧ (linkResetBlocks cause s).supervisionLinkReset.events
        = ds.foldl (EventUnit.raise false) (s.events.linkReset cause s.link.keep s.time) := by
    unfold State.supervisionLinkReset
    split
    · exact ⟨[], fun _ h => absurd h List.not_mem_nil, rfl⟩
    · exact ⟨[], fun _ h => absurd h List.not_mem_nil, rfl⟩
    · exact ⟨PermitUnit.holdEvent .supervision _ _, fun _ => kind_of_mem_holdEvent, rfl⟩
    · exact ⟨[], fun _ h => absurd h List.not_mem_nil, rfl⟩
  obtain ⟨ds, hd, he⟩ := h1
  refine ⟨ds ++ merged s.free [abortEvents .linkReset s, settingReady .reset (linkResetBlocks cause s).records s.time], fun d h => ?_, ?_⟩
  · rcases List.mem_append.1 h with h | h
    · rw [hd d h]; decide
    · obtain ⟨l, hl, hm⟩ := mem_merged.1 h
      simp only [List.mem_cons, List.not_mem_nil, or_false] at hl
      rcases hl with rfl | rfl
      · rw [kind_of_mem_abortEvents hm]; decide
      · rw [kind_of_mem_settingReady hm]; decide
  · rw [List.foldl_append, ← he]
    unfold linkReset State.raiseAll State.sending
    dsimp only
    rw [supervisionLinkReset_link]
    rfl

end Sys2Proof.Machine
end

