-- ==== Sys2Proof/Laws/Receiver.lean ====
section
/-! SUPPORT. The receiver (R182): what judging a frame leaves of it, how much fuel the hunt needs, and that bytes may arrive in one
command or in several. -/
namespace Sys2Proof.Machine

/-! ### What a judged frame leaves alone -/

/-- Time and the receiver's held bytes are those of the state before. -/
def State.receiverKept (s t : State) : Prop := t.time = s.time ∧ t.link.rx = s.link.rx

theorem State.receiverKept.trans {s t u : State} (h1 : s.receiverKept t) (h2 : t.receiverKept u) : s.receiverKept u :=
  ⟨h2.1.trans h1.1, h2.2.trans h1.2⟩

/-- No block's answer touches the receiver. -/
theorem answer_receiver (i : Instr) (s : State) : s.receiverKept (answer i s).state := by
  have abort : s.receiverKept (s.abortOp .request) := ⟨abortOp_time _ _, congrArg LinkPort.rx (abortOp_link _ _)⟩
  cases i <;> first | exact ⟨rfl, rfl⟩ | (simp only [answer, answerSetScan, applySetScan, answerSetChannel, answerScanOnce, answerSetCrane,
    answerTableBegin, answerTableWrite, answerTableEnd, answerTableRead, answerSetZone, answerClearZone, answerGetZone, answerSetSort,
    answerMark, answerSetWeigh, answerWeighFlush, answerWeighDiscard, answerSetPayload, answerTallyAdjust, answerTallySet, answerLoadClose,
    answerFetchRecords, answerSetStream, answerZero, answerSpan, answerOpAbort, answerSetLines, answerSetSupervision, answerResume,
    answerSetEvents, answerGetDetail, answerSetLink, Answer.ok, Answer.refuse, Answer.accepted]; repeat' split) <;>
    first | exact ⟨rfl, rfl⟩ | exact abort

theorem takeRequest_receiver (f : RequestFrame) (s : State) : s.receiverKept (takeRequest f s) := by
  have h : s.receiverKept (answerFrame f s).state := by
    unfold answerFrame
    split
    · exact ⟨rfl, rfl⟩
    · split
      · exact ⟨rfl, rfl⟩
      · split
        · exact answer_receiver _ s
        · exact ⟨rfl, rfl⟩
  exact h

theorem takeNext_receiver (s : State) : s.receiverKept (takeNext s) := by
  unfold takeNext
  split
  · exact takeRequest_receiver _ { s with link := { s.link with buffer := _ } }
  · exact ⟨rfl, rfl⟩
  · exact ⟨rfl, rfl⟩

theorem offer_receiver (f : RequestFrame) (s : State) : s.receiverKept (offer f s) := by
  have h : (takeNext s).receiverKept (join f (takeNext s)) := by
    unfold join
    split <;> exact ⟨rfl, rfl⟩
  exact ((takeNext_receiver s).trans h).trans (takeNext_receiver _)

theorem goodFrame_receiver (s : State) : s.receiverKept s.goodFrame := by
  unfold State.goodFrame
  dsimp only
  split <;> exact ⟨rfl, rfl⟩

theorem acceptFrame_receiver (len : Nat) (bytes : List Byte) (s : State) : s.receiverKept (acceptFrame len bytes s) := by
  unfold acceptFrame
  dsimp only
  split
  · exact (goodFrame_receiver s).trans (offer_receiver _ _)
  · exact goodFrame_receiver s

theorem hunt_receiver (fuel : Nat) (bytes : List Byte) (s : State) : s.receiverKept (hunt fuel bytes s).1 := by
  induction fuel generalizing bytes s with
  | zero => exact ⟨rfl, rfl⟩
  | succ n ih =>
    cases bytes with
    | nil => exact ⟨rfl, rfl⟩
    | cons b rest =>
      unfold hunt
      split
      · exact ih _ _
      · cases rest with
        | nil => exact ⟨rfl, rfl⟩
        | cons lenByte tail =>
          dsimp only
          split
          · exact ih _ _
          · split
            · exact ⟨rfl, rfl⟩
            · split
              · exact (acceptFrame_receiver _ _ s).trans (ih _ _)
              · exact ih _ _

/-! ### The hunt -/

/-- As much fuel as there are bytes is enough. -/
theorem hunt_fuel (n m : Nat) (bytes : List Byte) (s : State) (hn : bytes.length ≤ n) (hm : bytes.length ≤ m) :
    hunt n bytes s = hunt m bytes s := by
  induction n generalizing m bytes s with
  | zero =>
    rw [List.eq_nil_of_length_eq_zero (Nat.le_zero.1 hn)]
    cases m <;> rfl
  | succ n ih =>
    cases bytes with
    | nil => cases m <;> rfl
    | cons b rest =>
      cases m with
      | zero => cases hm
      | succ m =>
        have hn' := Nat.le_of_succ_le_succ hn
        have hm' := Nat.le_of_succ_le_succ hm
        have hd : ∀ k, (rest.drop k).length ≤ rest.length := fun k => by rw [List.length_drop]; exact Nat.sub_le ..
        unfold hunt
        split
        · exact ih _ _ _ hn' hm'
        · cases rest with
          | nil => rfl
          | cons lenByte tail =>
            dsimp only
            rw [ih m (lenByte :: tail) _ hn' hm', ih m _ _ (Nat.le_trans (hd _) hn') (Nat.le_trans (hd _) hm')]

/-- The bytes of a whole frame are judged alike whatever follows them. -/
theorem checkMatches_append {len : Nat} {a : List Byte} (h : len + 3 ≤ a.length) (b : List Byte) :
    checkMatches len (a ++ b) = checkMatches len a := by
  unfold checkMatches
  rw [List.take_append_of_le_length (by omega), List.drop_append_of_le_length (by omega),
    List.take_append_of_le_length (by rw [List.length_drop]; omega)]

theorem acceptFrame_append {len : Nat} {a : List Byte} (h : len + 3 ≤ a.length) (b : List Byte) (s : State) :
    acceptFrame len (a ++ b) s = acceptFrame len a s := by
  unfold acceptFrame requestIn
  rw [List.drop_append_of_le_length (by omega), List.take_append_of_le_length (by rw [List.length_drop]; omega)]

/-- The hunt over bytes and others behind them: over the first, then over what that holds and the others. -/
theorem hunt_append (a b : List Byte) (s : State) (now : Time) :
    hunt (a ++ b).length (a ++ b) s =
      let r := hunt a.length a s
      let held := heldBytes (r.2.map fun x => ⟨x, now⟩) ++ b
      hunt held.length held r.1 := by
  have key : ∀ (n : Nat) (a : List Byte) (s : State), a.length ≤ n →
      hunt (a ++ b).length (a ++ b) s =
        hunt (heldBytes ((hunt n a s).2.map fun x => ⟨x, now⟩) ++ b).length
          (heldBytes ((hunt n a s).2.map fun x => ⟨x, now⟩) ++ b) (hunt n a s).1 := by
    intro n
    induction n with
    | zero =>
      intro a s h
      rw [List.eq_nil_of_length_eq_zero (Nat.le_zero.1 h)]
      rfl
    | succ n ih =>
      intro a s h
      cases a with
      | nil => rfl
      | cons x rest =>
        have h' := Nat.le_of_succ_le_succ h
        rw [List.cons_append, List.length_cons]
        by_cases hx : x ≠ syncByte
        · have h1 : ∀ k l, hunt (k + 1) (x :: l) s = hunt k l s := fun k l => by rw [hunt.eq_def]; exact if_pos hx
          rw [h1, h1]
          exact ih rest s h'
        · cases rest with
          | nil =>
            rw [Classical.not_not.1 hx]
            rfl
          | cons lenByte tail =>
            have hr : hunt (n + 1) (x :: lenByte :: tail) s =
                if lenByte.toNat < 2 || 250 < lenByte.toNat then hunt n (lenByte :: tail) (s.raise (.linkFault .check s.time))
                else if (lenByte :: tail).length < lenByte.toNat + 3 then (s, some (lenByte :: tail))
                else if checkMatches lenByte.toNat (lenByte :: tail) then
                  hunt n ((lenByte :: tail).drop (lenByte.toNat + 3)) (acceptFrame lenByte.toNat (lenByte :: tail) s)
                else hunt n (lenByte :: tail) (s.raise (.linkFault .check s.time)) := by
              rw [hunt, if_neg hx]
            have hl : ∀ k, hunt (k + 1) (x :: (lenByte :: tail ++ b)) s =
                if lenByte.toNat < 2 || 250 < lenByte.toNat then hunt k (lenByte :: tail ++ b) (s.raise (.linkFault .check s.time))
                else if (lenByte :: tail ++ b).length < lenByte.toNat + 3 then (s, some (lenByte :: tail ++ b))
                else if checkMatches lenByte.toNat (lenByte :: tail ++ b) then
                  hunt k ((lenByte :: tail ++ b).drop (lenByte.toNat + 3)) (acceptFrame lenByte.toNat (lenByte :: tail ++ b) s)
                else hunt k (lenByte :: tail ++ b) (s.raise (.linkFault .check s.time)) := by
              intro k
              rw [List.cons_append, hunt, if_neg hx]
            by_cases h1 : (lenByte.toNat < 2 || 250 < lenByte.toNat) = true
            · rw [hl, hr, if_pos h1, if_pos h1]
              exact ih _ _ h'
            · by_cases h2 : (lenByte :: tail).length < lenByte.toNat + 3
              · rw [hr, if_neg h1, if_pos h2, Classical.not_not.1 hx]
                rfl
              · have h3 := Nat.le_of_not_lt h2
                have h4 : ¬(lenByte :: tail ++ b).length < lenByte.toNat + 3 := by rw [List.length_append]; omega
                rw [hl, hr, if_neg h1, if_neg h1, if_neg h2, if_neg h4, checkMatches_append h3, acceptFrame_append h3,
                  List.drop_append_of_le_length h3]
                split
                · refine (hunt_fuel _ _ _ _ ?_ (Nat.le_refl _)).trans (ih _ _ ?_)
                  · rw [List.length_append, List.length_append, List.length_drop]
                    omega
                  · rw [List.length_drop]
                    omega
                · exact ih _ _ h'
  exact key a.length a s (Nat.le_refl _)

/-! ### The receiver -/

theorem receive_eq {bytes : List Byte} (h : bytes ≠ []) (s : State) :
    receive bytes s =
      let all := heldBytes s.link.rx ++ bytes
      let r := hunt all.length all s.hunting
      { r.1 with link := { r.1.link with rx := r.2.map fun b => ⟨b, s.time⟩ } } := by
  unfold receive
  rw [if_neg (by simpa using h)]

/-- Bytes that arrive at one moment may arrive in one command or in several (R182). -/
theorem receive_append (a b : List Byte) (s : State) : receive (a ++ b) s = receive b (receive a s) := by
  by_cases ha : a = []
  · subst ha
    rfl
  by_cases hb : b = []
  · subst hb
    rw [List.append_nil]
    rfl
  rw [receive_eq (List.append_ne_nil_of_left_ne_nil ha b), receive_eq hb, receive_eq ha]
  dsimp only
  have hk := hunt_receiver (heldBytes s.link.rx ++ a).length (heldBytes s.link.rx ++ a) s.hunting
  have ht : (hunt (heldBytes s.link.rx ++ a).length (heldBytes s.link.rx ++ a) s.hunting).1.time = s.time := hk.1
  have hs : State.hunting { (hunt (heldBytes s.link.rx ++ a).length (heldBytes s.link.rx ++ a) s.hunting).1 with
      link := { (hunt (heldBytes s.link.rx ++ a).length (heldBytes s.link.rx ++ a) s.hunting).1.link with
        rx := (hunt (heldBytes s.link.rx ++ a).length (heldBytes s.link.rx ++ a) s.hunting).2.map fun b => ⟨b, s.time⟩ } }
      = (hunt (heldBytes s.link.rx ++ a).length (heldBytes s.link.rx ++ a) s.hunting).1 := by
    generalize hunt (heldBytes s.link.rx ++ a).length (heldBytes s.link.rx ++ a) s.hunting = r at hk
    have : r.1.link.rx = none := hk.2
    unfold State.hunting
    dsimp only
    rw [← this]
  rw [hs, ht, ← List.append_assoc, hunt_append _ b _ s.time]

end Sys2Proof.Machine
end

