-- ==== Sys2Proof/Tests/Slice0.lean ====
section
/-! SUPPORT. The model's own tests: figures that the manual works out, the checks of WellFormed on ill-formed terms, and for the
statements that have hypotheses a state and operands that meet them, clause by clause, at values where the clauses meet. -/
set_option maxRecDepth 100000
namespace Sys2Proof.Tests
open Sys2Proof Sys2Proof.Machine

/-! ### Figures of the manual -/

/-- The check value of the CRC of R34 for the digits 1 to 9. -/
theorem test_crc : crc16 [0x31, 0x32, 0x33, 0x34, 0x35, 0x36, 0x37, 0x38, 0x39] = 0x29B1 := by decide

/-- R8 and 1.11: compensation and scaling of LIFT_P at REF 32,868, 35,600 and 35,700, of GRIP_P below 0, and of SUPPLY. -/
theorem test_compensation :
    let raw := fun p g s r : BitVec 16 => (#v[p, 0, g, 0, 0, 0, 0, 0, 0, 0, s, r] : Vector (BitVec 16) 12)
    compensated (raw 16484 60 21846 32868) 0 = 16384 ∧ scaledValue (raw 16484 60 21846 32868) 0 = 10000
      ∧ compensated (raw 16484 60 21846 32868) 2 = 0 ∧ scaledValue (raw 16484 60 21846 35600) 0 = 8332
      ∧ scaledValue (raw 16484 60 19000 35700) 0 = 8271 ∧ scaledValue (raw 16484 60 21846 32868) 10 = 1000
      ∧ scaledValue (raw 16484 60 19000 32868) 10 = 869 ∧ scaledValue (raw 0 0 0 35600) 11 = 35600 := by decide

/-- R4: the smallest periods that pass. -/
theorem test_budget :
    let all := fun l : Fin 8 => Vector.replicate 12 l
    budgetHolds (all 2) 5 = true ∧ scanDuration (all 2) = 2400 ∧ budgetHolds ((all 2).set 9 7) 10 = true
      ∧ budgetHolds ((all 2).set 9 7) 9 = false ∧ budgetHolds (all 5) 21 = true ∧ budgetHolds (all 5) 20 = false
      ∧ budgetHolds (all 7) 78 = true ∧ budgetHolds (all 7) 77 = false := by decide

/-- 2.3: the poses of scans A, B and C. -/
theorem test_pose :
    tiltResolved 300 50 (-40) 900 = 260 ∧ tiltResolved 296 50 (-40) 3590 = 347 ∧ tiltResolved 300 50 (-40) 5 = 350
      ∧ solvePosition ⟨5000, 3200, 2400, 200, 110⟩ 260 (-700) 800 = ⟨7371, 1813⟩
      ∧ solvePosition ⟨5000, 3200, 2400, 200, 110⟩ 350 (-700) 800 = ⟨7372, 2974⟩
      ∧ cellOf 260 7371 = .cell 9 5 ∧ cellOf 350 7372 = .cell 11 5 ∧ cellOf 600 7372 = .outOfTable
      ∧ solveRates (some ⟨3590, 347, some 10⟩) 20 5 350 = some ⟨1500, 300⟩ := by decide

/-- R40: the rows of the sector table. -/
theorem test_sector :
    let z := fun a b : Nat => (⟨a, b, 0, 0, 0, 0, .weigh⟩ : Zone)
    inSector (z 1500 2100) 1800 = true ∧ inSector (z 1500 2100) 2101 = false ∧ inSector (z 3300 600) 3450 = true
      ∧ inSector (z 3300 600) 600 = true ∧ inSector (z 3300 600) 700 = false ∧ inSector (z 900 900) 0 = true := by decide

/-- R83 with trim 1,020, tare 35, k 9,800, e 620, Ap 200, Ar 110, LIFT_P 10,000 and LIFT_R 1,500. -/
theorem test_weight : weightOf 1020 35 9800 620 (netForce ⟨5000, 3200, 2400, 200, 110⟩ 10000 1500) = 1167 := by decide

/-- R129: netting before a fold that would not fit, and R107's table. -/
theorem test_tally_figures :
    Gap.fold ⟨7, 16700000, 16000000, 50000⟩ .load 99000 = ⟨8, 849000, 0, 0⟩
      ∧ (SortEntry.load ⟨4400, 0, 0, 0, 0, 0⟩ (some 1250)).bunk = 5650
      ∧ (SortEntry.load ⟨99200, 0, 0, 0, 0, 255⟩ (some 1150)) = ⟨99999, 799, 0, 0, 1, 255⟩
      ∧ liftExcess ⟨99200, 0, 0, 0, 0, 0⟩ .load (some 1150) = some 351
      ∧ liftExcess ⟨0, 0, 0, 0, 0, 0⟩ .unload (some 760) = some 760 := by decide

/-- R147 and R150: 8.7 and 8.8. -/
theorem test_calibration_figures :
    zeroComplete 1123 3 50350 =
        ⟨none, some ⟨.zero, .done, some 35, 32, 3, some 35, none, 50350⟩, some 35, none⟩
      ∧ spanComplete 1500 (List.replicate 64 1471) 30800 =
        ⟨none, some ⟨.span, .done, some 1020, 64, 0, some 1471, some 1500, 30800⟩, none, some 1020⟩
      ∧ (spanComplete 1100 (List.replicate 64 1471) 30800).done =
        some ⟨.span, .failed .range, some 748, 64, 0, some 1471, some 1100, 30800⟩ := by decide

/-- The sizes of records (R126), and the largest replies' records (R199). -/
theorem test_record_sizes :
    let lift := adjustRecord Tally.reset 0 0 0
    let load := Tally.loadRecord Tally.reset .carry 0
    lift.bytes.length = 29 ∧ load.bytes.length = 27
      ∧ { lift with weight := some 1, excess := some 1, gap := some ⟨1, 0, 0, 0⟩ }.bytes.length = 45
      ∧ { load with entries := List.replicate 12 ⟨0, ⟨0, 0, 0, 0, 0, 0⟩⟩, gap := some ⟨1, 0, 0, 0⟩ }.bytes.length = 217 := by decide

/-! ### Commands from power-on -/

/-- The first frame on the line is the RESTARTED notice (R180, R194). -/
theorem test_first_frame :
    ((transmitStart State.reset).link.tx.map fun f => f.bytes.take 14) =
      some [0xC3, 12, 0x53, 0, 1, 14, 1, 6, 0, 0, 0, 0, 0, 0] := by decide

/-- A PING frame is answered with its TAG, the part code, the revision and the time (R181, R186, R192). -/
theorem test_ping_frame :
    (receive (RequestFrame.bytes ⟨7, 0x72, []⟩) State.reset).link.slot =
      some ⟨7, 0x72, .ok, [0x4C, 0x12, 1, 0, 0, 0, 0], 0, .nothing⟩ := by decide

/-- A PING frame as bytes on the line (R181). -/
theorem test_ping_bytes : (RequestFrame.bytes ⟨7, 0x72, []⟩).take 5 = [0xC3, 3, 0x51, 7, 0x72] := by decide

/-- GET_STATUS after power-on (R193). -/
theorem test_status :
    statusBytes State.reset = [0, 0, 0, 0, 0, 1, 0, 0, 0, 0, 0, 0, 0, 0, 0, 0, 0, 0, 0, 1, 0, 1, 1, 1, 1, 1, 1, 1, 1] := by decide

/-- A stray SYNC costs the frame it spoils, and the frame behind it is found (R182). -/
theorem test_hunt :
    let s := receive (0xC3 :: 4 :: RequestFrame.bytes ⟨9, 0x71, []⟩) State.reset
    s.link.slot = some ⟨9, 0x71, .ok, [], 0, .linkReset⟩ ∧ s.events.detail .linkFault = some (.linkFault .check 0) := by decide

/-- Warn, stop and resume (9.8), from an interval of 500. -/
theorem test_supervision :
    let s := (takeRequest ⟨1, 0x5B, [1, 244]⟩ State.reset)
    let w := supervisionTimerExpiry { s with time := 500 }
    let x := supervisionTimerExpiry { w with time := 1000 }
    let r := takeRequest ⟨2, 0x5C, []⟩ { x with time := 1400 }
    s.permit.sup = ⟨500, .normal, some 500, none⟩ ∧ w.permit.sup.stage = .warned ∧ x.permit.sup = ⟨500, .stopped, none, none⟩
      ∧ x.permit.outputs = rowHold ∧ r.permit.sup = ⟨500, .normal, some 1900, none⟩ ∧ r.permit.outputs = .const .slow := by decide

/-- LEN_OUT_OF_RANGE raises LINK_FAULT CHECK and the hunt goes on at the LEN byte (R182). -/
theorem test_len_out_of_range :
    (lenOutOfRange 1 State.reset).events.detail .linkFault = some (.linkFault .check 0)
      ∧ (lenOutOfRange 1 State.reset).link.rx = none := by decide

/-! ### The checks of WellFormed refuse ill-formed terms -/

/-- TABLE_WRITE carries eight cells (R32). -/
theorem test_wf_tableWrite : (Instr.tableWrite 0 0 (List.replicate 7 (1, 0, 0))).wf = false
    ∧ (Instr.tableWrite 0 0 (List.replicate 8 (1, 0, 0))).wf = true := by decide

/-- TALLY_SET carries twelve weights (R117). -/
theorem test_wf_tallySet : (Instr.tallySet 0 (List.replicate 11 0)).wf = false
    ∧ (Instr.tallySet 0 (List.replicate 12 0)).wf = true := by decide

/-- UNKNOWN_REQUEST carries a code that R196 does not list, and a BODY that fits a frame (R181). -/
theorem test_wf_unknownRequest : (Instr.unknownRequest 0 0x10 []).wf = false ∧ (Instr.unknownRequest 0 0xFF []).wf = true
    ∧ (Instr.unknownRequest 0 0xFF (List.replicate 248 0)).wf = false := by decide

/-- FRAME_RECEIVED carries at least one byte (R182). -/
theorem test_wf_frameReceived : (Instr.frameReceived []).wf = false ∧ (Instr.frameReceived [0xC3]).wf = true := by decide

/-- LEN_OUT_OF_RANGE carries a LEN outside 2 to 250 (R182). -/
theorem test_wf_lenOutOfRange : (Instr.lenOutOfRange 2).wf = false ∧ (Instr.lenOutOfRange 250).wf = false
    ∧ (Instr.lenOutOfRange 1).wf = true ∧ (Instr.lenOutOfRange 251).wf = true := by decide

/-- LINE_BREAK_END ends a space of 100 ms or more (R190). -/
theorem test_wf_lineBreakEnd : (Instr.lineBreakEnd 99).wf = false ∧ (Instr.lineBreakEnd 100).wf = true := by decide

/-! ### Small states -/

/-- The state after power-on, at another time. -/
def at_ (n : Nat) : State := { State.reset with time := BitVec.ofNat 32 n }

/-- A running operation. -/
def running (o : Op) : State := { State.reset with op := ⟨some o, none⟩ }

/-- No scan in progress, the scan timer as it was. -/
def onlyTimer (s : State) : State := { s with scanner := { s.scanner with running := none } }

/-- The scanner in MANUAL, no scan in progress. -/
def inManual : State :=
  { State.reset with
    scanner := { State.reset.scanner with mode := .manual, timer := none, running := none }
    tracker := ⟨.held, 0⟩ }

/-- A lift, its context, and a state with that lift GRIPPED and a window. -/
def lift0 : Lift := ⟨.field, 0, 5, 0, false, false⟩
def context0 : LiftContext := ⟨32, 8, 40, 150, 1000, 0, .gripped, 5, none⟩
def gripped (w : WindowState) (samples : List Int) : State :=
  { State.reset with
    time := 2
    tracker := ⟨.gripped lift0, 0⟩
    weigh := { State.reset.weigh with context := .lift context0, window := ⟨w, samples, false⟩ } }

/-- The same lift in RELEASE_HOLD, its regrip timer expiring at 2. -/
def releaseHold : State := { gripped .frozen [] with tracker := ⟨.releaseHold lift0 ⟨.bunk, 1, 0, 0⟩ 2, 0⟩ }

/-- CALIBRATION with the window of a running SPAN. -/
def spanning (samples : List Int) : State :=
  { State.reset with
    time := 2
    tracker := ⟨.calibration, 0⟩
    op := ⟨some (.span 1500), none⟩
    weigh := { State.reset.weigh with context := .calibration ⟨64, 150, 1000, 0⟩, window := ⟨.opened, samples, false⟩ } }

/-- A table of one cell repeated, in a state of the table. -/
def table (state : TableState) (c : Cell) : Geometry := ⟨state, Vector.replicate 16 (some (Vector.replicate 8 c))⟩

/-- Raw counts: every channel within its full range, SUPPLY and REF in their bands, with GRIP_P given. -/
def raw (gripP : BitVec 16) : Vector (BitVec 16) 12 := #v[16384, 2458, gripP, 32768, 32768, 0, 0, 32768, 32768, 0, 0, 32768]

/-- Crane constants that put the boom of `raw` in row 4 and column 5 of the table. -/
def crane0 : Crane := ⟨4000, 3000, 2400, 200, 110⟩

/-- A scan of `raw` in a state with constants and a valid table. -/
def weighing (s : State) : State := { s with pose := { s.pose with crane := some crane0 }, table := table .valid ⟨9800, 620, 1000⟩ }

/-- A record queue with so many lift records and load records. -/
def held (lifts loads : Nat) : State :=
  { State.reset with records := { State.reset.records with
      records := List.replicate lifts ⟨.lift (adjustRecord Tally.reset 0 0 0), false⟩
        ++ List.replicate loads ⟨.load (Tally.loadRecord Tally.reset .carry 0), false⟩ } }

/-- Supervision in a stage, its timer expiring at 0 or stopped. -/
def supervised (v : Supervision) : State := { State.reset with permit := { State.reset.permit with sup := v } }

/-- An aux line 0 in a mode, its input HIGH since `since`, its debounced level LOW. -/
def auxLine (mode : AuxMode) (n : Nat) : State :=
  { at_ n with permit := { State.reset.permit with aux := State.reset.permit.aux.set 0 ⟨mode, true, true, false, 0, none⟩ } }

/-- A link port with a slot, a buffer, a frame being sent. -/
def linked (slot : Option Reply) (buffer : List RequestFrame) (tx : Option TxFrame) : State :=
  { State.reset with link := { State.reset.link with slot := slot, buffer := buffer, tx := tx } }

/-- A PING request and a reply to one. -/
def pingFrame : RequestFrame := ⟨1, 0x72, []⟩
def pingReply : Reply := ⟨1, 0x72, .ok, [], 0, .nothing⟩

/-! ### The hypotheses of the statements are met -/

/-- StepRunsTheFrontCommand: a command in front; an empty queue; an empty queue with nothing due. -/
theorem test_hyp_StepRunsTheFrontCommand :
    { State.reset with pending := [.ping 0] }.pending = .ping 0 :: [] ∧ State.reset.pending = []
      ∧ (let s := { at_ 1 with events := { State.reset.events with queue := [] } }; s.pending = [] ∧ ∀ l ∈ due s, l = []) := by decide

/-- LineBreakResetsTheLink: both sides of 100 ms; a table that is LOADING; each stage of supervision; a queue that is ready in POLLED
after the reset, by its threshold and by a load record, and two that are not. -/
theorem test_hyp_LineBreakResetsTheLink :
    (99 : BitVec 32).toNat < 100 ∧ 100 ≤ (100 : BitVec 32).toNat ∧ (table .loading ⟨1, 0, 0⟩).state = .loading
      ∧ (let sup := fun st tm => (linkReset .request (supervised ⟨500, st, tm, none⟩)).permit.sup
        sup .normal (some 7) = ⟨500, .normal, some 500, none⟩ ∧ sup .warned (some 7) = ⟨500, .normal, some 500, none⟩
          ∧ sup .stopped none = ⟨500, .stopped, none, none⟩ ∧ (linkReset .request State.reset).permit.sup = ⟨0, .off, none, none⟩)
      ∧ (let ready := fun s : State => (linkReset .break_ s).events.detail .recordsReady
        ready (held 4 0) = some (.recordsReady .reset 4 0 0) ∧ ready (held 0 1) = some (.recordsReady .reset 0 1 0)
          ∧ ready (held 3 0) = none
          ∧ (let s := held 4 0
            ready { s with records := { s.records with mode := .stream }, link := { s.link with keep := true } } = none)) := by decide

/-- LineBreakResetsTheLink, the notice queue (R179): the notices leave it, their kinds are pending again, and they are queued anew by
priority, RESTARTED among them, whether the head notice was in transmission or not; with KEEP in SUMMARY they are one ATTENTION. -/
theorem test_link_reset_queue :
    let noticed := { State.reset.events with queue := [.event .linkFault, .event .tableInvalid] }
    let s := { linked none [] none with events := noticed }
    let sending := { linked none [] (some ⟨.notice, []⟩) with events := noticed }
    let kept := { s with events := { noticed with mode := .summary, armed := false }, link := { s.link with keep := true } }
    (linkReset .break_ s).events.queue = ([.tableInvalid, .linkFault, .restarted] : List Kind).map Notice.event
      ∧ (linkReset .break_ s).events.pending = 0 ∧ (linkReset .break_ sending).events = (linkReset .break_ s).events
      ∧ (linkReset .break_ kept).events.queue = [.attention] ∧ (linkReset .break_ kept).events.armed = false
      ∧ (linkReset .break_ kept).events.isPending .linkFault = true := by decide

/-- The aborts that LineBreakResetsTheLink, OperationRequestsOutcome and SupervisionCommandsOutcome state, operation by operation: ZERO,
SPAN with its OPEN window and with a closed one, SCAN_ONCE with its own scan and while an AUTO scan runs, none. -/
theorem test_hyp_Aborts :
    (let z := linkReset .request (running (.zero 9 0 3));
      z.op = ⟨none, some ⟨.zero, .aborted .linkReset, 0⟩⟩
        ∧ z.events.detail .opDone = some (.opDone ⟨.zero, .aborted .linkReset, none, 9, 3, none, none, 0⟩))
      ∧ (let p := linkReset .request (spanning [7, 8])
        p.weigh.window = ⟨.closed .short, [7, 8], false⟩
          ∧ p.events.detail .opDone = some (.opDone ⟨.span, .aborted .linkReset, none, 2, 0, none, some 1500, 2⟩))
      ∧ ({ (spanning [7]).weigh with window := ⟨.closed .fault, [7], false⟩ }.abortSpan.window.state = .closed .fault)
      ∧ (let own := { inManual with
          op := ⟨some .scanOnce, none⟩
          scanner := { inManual.scanner with running := some ⟨State.reset.scanner.levels, 0, none⟩ } }
        (own.abortOp .request).scanner.running = none)
      ∧ ((running .scanOnce).abortOp .supervision).scanner.running = State.reset.scanner.running
      ∧ (State.reset.abortOp .request).events.detail .opDone = none ∧ State.reset.op.slot = none := by decide

/-- ScanTimerExpiryStartsAScan: at the expiry with no scan in progress and with one, and a millisecond before. -/
theorem test_hyp_ScanTimerExpiryStartsAScan :
    (at_ 10).scanner.mode = .auto ∧ (at_ 10).scanner.timer = some (at_ 10).time ∧ (at_ 10).scanner.running ≠ none
      ∧ (onlyTimer (at_ 10)).scanner.timer = some (at_ 10).time ∧ (onlyTimer (at_ 10)).scanner.running = none
      ∧ (at_ 9).scanner.timer ≠ some (at_ 9).time := by decide

/-- The scan completions (ReplacesTheLatestScan, Frame, SolvesThePose, JudgesZones): the first scan can complete at 2. -/
theorem test_hyp_ScanCompletion :
    (∃ run, (at_ 2).scanner.running = some run ∧ scanDuration run.levels / 1000 ≤ ((at_ 2).time - run.start).toNat
      ∧ run.canComplete (at_ 2).time = true)
      ∧ (at_ 2).tracker.state.isGripped = false ∧ (gripped .opened []).weigh.params.regrip ≠ 0 :=
  ⟨⟨_, rfl, by decide, by decide⟩, by decide⟩

/-- The events of a completion: REF at 0 leaves IN, which is a reference fault of REF with polarity LOW; nothing leaves IN in a second
such scan; SUPPLY and REF in their bands. -/
theorem test_scan_events :
    let scan := completedScan ((raw 0).set 11 0) (at_ 2)
    let again := { State.reset.scanner with latest := some scan }
    channelBandEvents State.reset.scanner scan = [.channelBand 11 false 0 2]
      ∧ refFaultEvents State.reset.scanner scan = [.refFault .ref (some false) none 0 0 2]
      ∧ channelBandEvents again scan = [] ∧ refFaultEvents again scan = [] ∧ (completedScan (raw 0) (at_ 2)).referenced = true := by decide

/-- A scan waits for the completion: AUTO with the timer stopped (R7), SCAN_ONCE accepted during an AUTO scan (R17). -/
theorem test_waiting_scan :
    let run : ScanRun := ⟨State.reset.scanner.levels, 0, some 10⟩
    let auto := { at_ 2 with scanner := { State.reset.scanner with timer := none } }
    let once := { inManual with time := 2, op := ⟨some .scanOnce, none⟩ }
    (completeScan run (raw 0) auto).scanner.running = some ⟨State.reset.scanner.levels, 2, some 10⟩
      ∧ (completeScan run (raw 0) auto).scanner.timer = some 12
      ∧ (completeScan run (raw 0) once).scanner.running = some ⟨State.reset.scanner.levels, 2, none⟩
      ∧ (completeScan { run with loaded := none } (raw 0) once).scanner.running = none := by decide

/-- With nobody speaking for the sensors a scan completes at its own millisecond, before the scan timer's expiry (log 3). -/
theorem test_idle_completes :
    let quiet := fun n => { at_ n with events := { State.reset.events with queue := [] } }
    (due (quiet 1)).map List.length = List.replicate 10 0 ∧ (due (quiet 2)).map List.length = 1 :: List.replicate 9 0
      ∧ (due (onlyTimer (quiet 10))).flatten = [.scanTimerExpiry] := by decide

/-- SetScanOutcome: busy slot; bad mode, periods 4 and 101, and a period over the budget; MANUAL while GRIPPED; no change at 5 and 100;
MANUAL while EMPTY; AUTO from MANUAL. -/
theorem test_hyp_SetScanOutcome :
    State.reset.linkReady ∧ (running .scanOnce).linkReady ∧ (gripped .opened []).linkReady ∧ inManual.linkReady
      ∧ (running .scanOnce).op.slot ≠ none
      ∧ State.reset.op.slot = none ∧ 1 < (2 : Byte).toNat ∧ (4 : Byte).toNat < 5 ∧ 100 < (101 : Byte).toNat
      ∧ budgetHolds (Vector.replicate 12 7) 77 = false
      ∧ budgetHolds State.reset.scanner.levels 5 = true ∧ budgetHolds State.reset.scanner.levels 100 = true
      ∧ State.reset.scanner.mode = .auto ∧ (gripped .opened []).tracker.state ≠ .empty ∧ (gripped .opened []).op.slot = none
      ∧ (0 : Byte) = State.reset.scanner.mode.code ∧ (1 : Byte) = inManual.scanner.mode.code
      ∧ State.reset.tracker.state = .empty ∧ inManual.scanner.mode = .manual ∧ inManual.op.slot = none :=
  ⟨⟨rfl, rfl⟩, ⟨rfl, rfl⟩, ⟨rfl, rfl⟩, ⟨rfl, rfl⟩, by decide⟩

/-- SetChannelOutcome: busy slot; bounds at the ends of the full range of channel 11 and out of order; channel 12, level 8. -/
theorem test_hyp_SetChannelOutcome :
    (running .scanOnce).op.slot ≠ none ∧ (11 : Byte).toNat = (11 : Fin 12).val ∧ (7 : Byte).toNat = (7 : Fin 8).val
      ∧ boundsOk 11 (boundOf 11 0) (boundOf 11 65535) = true ∧ budgetHolds (State.reset.scanner.levels.set 11 7) 10 = true
      ∧ boundsOk 3 (boundOf 3 0xF8F8) (boundOf 3 1799) = true ∧ boundsOk 3 (boundOf 3 0xF8F7) (boundOf 3 1799) = false
      ∧ boundsOk 11 (boundOf 11 2) (boundOf 11 1) = false ∧ 12 ≤ (12 : Byte).toNat ∧ 8 ≤ (8 : Byte).toNat := by decide

/-- ScanOnceOutcome: busy; AUTO; MANUAL. -/
theorem test_hyp_ScanOnceOutcome :
    (running .scanOnce).op.slot = some .scanOnce ∧ State.reset.op.slot = none ∧ State.reset.scanner.mode = .auto
      ∧ inManual.op.slot = none ∧ inManual.scanner.mode = .manual := by decide

/-- ReadingRequestsChangeNothing: a table that is not VALID; a VALID one with rows 15 and 16; a kind and an entry by number. -/
theorem test_hyp_ReadingRequests :
    State.reset.table.state ≠ .valid ∧ (weighing State.reset).table.state = .valid
      ∧ (weighing State.reset).table.rows[(15 : Fin 16)] = some (Vector.replicate 8 ⟨9800, 620, 1000⟩)
      ∧ (15 : Byte).toNat = (15 : Fin 16).val ∧ 16 ≤ (16 : Byte).toNat ∧ (15 : Byte).toNat = Kind.lineState.prio.val := by decide

/-- Replies with figures, in each context of GET_WEIGH; a pose without constants and one with position and rates; the WEIGH_FLUSH of
each sort of window; an OP_ABORT refused with a last result; the adjustment of a tally; the head of a FETCH_RECORDS. -/
theorem test_reply_bytes :
    let context := fun s : State => ((answerGetWeigh s).results.drop 16).take 16
    let sampled := gripped .opened [1178, -2]
    let spanned := { State.reset with op := ⟨none, some ⟨.span, .failed .range, 7⟩⟩ }
    let posed := { State.reset with pose := ⟨some crane0, some ⟨260, 900, some (⟨7371, 1813⟩, .cell 9 5), some ⟨1500, 300⟩, false, false,
      false, 7⟩, none⟩ }
    context State.reset = [2, 0, 0, 0, 0, 0, 0]
      ∧ context (gripped .unopened []) = [0, 1, 32, 1, 8, 1, 0, 40, 0, 150, 3, 232, 0, 0, 1, 0]
      ∧ context (spanning []) = [1, 1, 64, 0, 0, 0, 150, 3, 232, 0, 0, 0, 1, 0, 0, 0]
      ∧ (answerGetWeigh sampled).results.drop 32 = [1, 0, 0, 0, 4, 154, 255, 255, 254, 0, 0]
      ∧ (answerGetPose State.reset).results = List.replicate 13 0
      ∧ ((answerGetPose posed).results.drop 11) = [1, 1, 4, 3, 132, 1, 28, 203, 1, 7, 21, 1, 5, 220, 1, 1, 44, 0, 0, 1, 1, 9, 5, 0, 0, 0, 7, 0]
      ∧ (answerWeighFlush (gripped .opened [1])).results = [1, 1, 4, 1, 0, 0, 0]
      ∧ (answerWeighFlush (gripped (.closed .fault) [1, 4])).results = [4, 1, 5, 2, 0, 3, 0]
      ∧ (answerWeighFlush State.reset).results = [0, 0, 0, 0, 0, 0]
      ∧ (answerOpAbort spanned).results = [1, 1, 1, 1, 2, 0, 0, 0, 7] ∧ (answerOpAbort State.reset).results = [0]
      ∧ (answerTallyAdjust 1 (-5) State.reset).results = [0, 1, 0, 1, 0, 0, 0, 0, 0, 5, 0, 0, 0, 0, 0, 0, 0, 0]
      ∧ (answerFetchRecords 4 (held 2 1)).results.take 5 = [3, 0, 0, 0, 29] := by decide

/-- PoseRatesAndCell: slews at both ends; a pose in the last cell and the ones beside it. -/
theorem test_hyp_PoseRatesAndCell :
    (let scan := judgeScan State.reset.scanner.channels (raw 0) 0;
      (0 : Int) ≤ scan.scaled[6] ∧ scan.scaled[6] < 3600) ∧ (0 : Int) ≤ 3599 ∧ (3599 : Int) < 3600
      ∧ cellOf 599 9999 = .cell 15 7 ∧ cellOf (-200) 2000 = .cell 0 0 ∧ cellOf 600 9999 = .outOfTable
      ∧ cellOf 599 10000 = .outOfTable := by decide

/-- SetCraneOutcome: a window in use; constants at the ends of their ranges; Ar equal to Ap. -/
theorem test_hyp_SetCraneOutcome :
    (gripped .opened []).weigh.window.state = .opened ∧ (gripped .suspended []).weigh.window.state = .suspended
      ∧ State.reset.weigh.window.state = .unopened ∧ craneOk ⟨8000, 1000, 4000, 2000, 1999⟩ = true
      ∧ craneOk ⟨8000, 1000, 4000, 2000, 2000⟩ = false := by decide

/-- TableBeginOutcome, TableWriteOutcome, TableEndOutcome: each state of the table, a calibration, a bad cell, rows 15 and 16, a table
with rows missing and a whole one with its check and with another. -/
theorem test_hyp_Table :
    (running (.zero 0 0 0)).op.slot = some (.zero 0 0 0) ∧ (Op.zero 0 0 0).kind ≠ .scanOnce ∧ State.reset.table.state ≠ .loading
      ∧ (table .loading ⟨1, 0, 0⟩).state = .loading ∧ (weighing State.reset).table.state = .valid
      ∧ (List.replicate 8 ((1, 0, 0) : BitVec 16 × BitVec 16 × BitVec 16)).length = 8
      ∧ (15 : Byte).toNat = (15 : Fin 16).val ∧ 16 ≤ (16 : Byte).toNat
      ∧ (∃ c ∈ List.replicate 8 ((0, 0, 0) : BitVec 16 × BitVec 16 × BitVec 16), c.1 = 0)
      ∧ Geometry.rowCount (Geometry.discard .loading) < 16 ∧ 16 ≤ (table .loading ⟨1, 0, 0⟩).rowCount := by decide

/-- SectorTest: the ends of the ranges. -/
theorem test_hyp_SectorTest :
    let z : Zone := ⟨3599, 0, 0, 0, 0, 0, .weigh⟩
    z.sectorStart ≤ 3599 ∧ z.sectorEnd ≤ 3599 ∧ (0 : Int) ≤ 3599 ∧ inSector z 3599 = true ∧ inSector z 0 = true ∧ inSector z 1 = false
      ∧ z.contains 0 ⟨0, 0⟩ = true := by decide

/-- ScanCompletionJudgesZones: a valid pose with a position, and an invalid one. -/
theorem test_hyp_ScanCompletionJudgesZones :
    ((scanView (raw 0) (weighing (at_ 2))).pose.valid = true ∧ (scanView (raw 0) (weighing (at_ 2))).pose.position.isSome = true)
      ∧ (scanView (raw 0) (at_ 2)).pose.valid = false := by decide

/-- ScanCompletionSolvesThePose: a slew of 0, a slew of 900, a position; the rates against a previous scan at slew 3,590 whose theta was
10 less, over the value loaded and, after a SCAN_ONCE, over the holding value. -/
theorem test_hyp_SolvesThePose :
    let past := fun loaded : Option Nat =>
      let s := weighing (at_ 2)
      { s with pose := { s.pose with prev := some ⟨3590, (completedPose (raw 0) s).theta - 10, loaded⟩ } }
    (completedPose (raw 0) (past (some 20))).rates = some ⟨500, 500⟩ ∧ (completedPose (raw 0) (past none)).rates = some ⟨1000, 1000⟩ ∧
    (completedPose (raw 0) (weighing (at_ 2))).slew = 0 ∧ (completedPose ((raw 0).set 6 16384) (weighing (at_ 2))).slew = 900
      ∧ (completedPose (raw 0) (weighing (at_ 2))).position.isSome = true := by decide

/-- ScanCompletionJudgesZones: an entry INSIDE of each kind, and the summary formed from them (R43). -/
theorem test_hyp_Summary :
    let entry := fun k : ZoneKind => (⟨some ⟨0, 0, -19999, 19999, -19999, 23999, k⟩, .notJudged, true⟩ : ZoneEntry)
    let z := State.reset.zones
    let s := { weighing (at_ 2) with zones := { z with
      entries := (((z.entries.set 0 (entry .weigh)).set 1 (entry .bunk)).set 2 (entry (.slow 3))).set 15 (entry (.hold 2)) } }
    (completedZones (raw 0) s).summary = some ⟨true, true, ⟨.slow, .hold, .free, .free, .free, .free⟩, 4, 2⟩ := by decide

/-- ZoneRequestsOutcome: index 15 and 16; contents of each kind; equal bounds; bounds past the range; an empty
function set and one with a seventh member. -/
theorem test_hyp_Zones :
    (15 : Byte).toNat = (15 : Fin 16).val ∧ 16 ≤ (16 : Byte).toNat
      ∧ zoneOf 0 3599 0xB1E1 0x4E1F 0xB1E1 0x5DBF 0 0 = some ⟨0, 3599, -19999, 19999, -19999, 23999, .weigh⟩
      ∧ zoneOf 0 0 0 0 0 0 1 0xFF = some ⟨0, 0, 0, 0, 0, 0, .bunk⟩
      ∧ zoneOf 0 0 0 0 0 0 2 63 = some ⟨0, 0, 0, 0, 0, 0, .slow 63⟩ ∧ zoneOf 0 0 0 0 0 0 3 1 = some ⟨0, 0, 0, 0, 0, 0, .hold 1⟩
      ∧ zoneOf 0 3600 0 0 0 0 0 0 = none ∧ zoneOf 0 0 1 0 0 0 0 0 = none ∧ zoneOf 0 0 0 0 0 0x5DC0 0 0 = none
      ∧ zoneOf 0 0 0 0 0 0 4 1 = none ∧ zoneOf 0 0 0 0 0 0 2 0 = none ∧ zoneOf 0 0 0 0 0 0 3 64 = none
      ∧ State.reset.zones.entries[(15 : Fin 16)].contents = none := by decide

/-- TrackerFollowsGripPressure and WindowAtAScanCompletion: gripping, releasing and neither, in each state of the tracker. GRIP_P is
6,000 and 5,999, 3,000 and 2,999. -/
theorem test_hyp_Tracker :
    weighParamsOk State.reset.weigh.params = true
      ∧ (let v := fun g => scanView (raw g) (at_ 2)
        (v 9831).scan.scaled[2] = 6000 ∧ (v 9831).scan.gripping State.reset.weigh.params = true
          ∧ (v 9830).scan.scaled[2] = 5999 ∧ (v 9830).scan.gripping State.reset.weigh.params = false
          ∧ (v 4916).scan.scaled[2] = 3000 ∧ (v 4916).scan.releasing State.reset.weigh.params = false
          ∧ (v 4915).scan.scaled[2] = 2999 ∧ (v 4915).scan.releasing State.reset.weigh.params = true)
      ∧ (gripped .opened []).tracker.state = .gripped lift0 ∧ (gripped .opened []).weigh.context = .lift context0
      ∧ releaseHold.tracker.state = .releaseHold lift0 ⟨.bunk, 1, 0, 0⟩ 2 ∧ releaseHold.weigh.context = .lift context0
      ∧ (spanning []).tracker.state = .calibration ∧ inManual.tracker.state = .held ∧ State.reset.tracker.state = .empty
      ∧ (gripped .opened []).scanner.running.any (fun r => r.canComplete 2) = true := by decide

/-- RegripExpiryFinalizesTheLift: at the expiry with fewer than 30 lift records and with 30, and a millisecond before. -/
theorem test_hyp_RegripExpiry :
    releaseHold.tracker.state = .releaseHold lift0 ⟨.bunk, 1, 0, 0⟩ releaseHold.time ∧ releaseHold.records.lifts < 30
      ∧ 30 ≤ (held 30 0).records.lifts ∧ (held 29 0).records.lifts < 30 ∧ { releaseHold with time := 1 }.time ≠ 2 := by decide

/-- What a finalization leaves: a LOAD lift of 100 kg into a load whose limit is 50, its record and PAYLOAD_LIMIT; the same lift without
a weight, LIFT_UNWEIGHED; and with 30 lift records held, the fold and RECORD_GAP. -/
theorem test_finalization :
    let weighed := { releaseHold with
      weigh := { releaseHold.weigh with window := ⟨.closed .full, List.replicate 8 100, false⟩ }
      tally := { releaseHold.tally with limit := 50 } }
    let t := regripTimerExpiry weighed
    let full := regripTimerExpiry { weighed with records := (held 30 0).records }
    t.tally.total = 100 ∧ t.tally.nextLift = 2 ∧ t.records.lifts = 1
      ∧ t.events.detail .payloadLimit = some (.payloadLimit 1 1 0 100 100 50 2)
      ∧ full.records.lifts = 30 ∧ full.records.gap = ⟨1, 100, 0, 0⟩ ∧ (full.events.detail .recordGap).isSome = true
      ∧ releaseHold.weigh.result.weight = none
      ∧ ((regripTimerExpiry releaseHold).events.detail .liftUnweighed).isSome = true := by decide

/-- LiftDirection: an invalid pose. -/
theorem test_hyp_LiftDirection : (scanView (raw 0) (at_ 2)).pose.valid = false := by decide

/-- TrackerRequestsOutcome: sorts 0, 1, 12 and 13, apply options 0, 1 and 2, with and without a lift. -/
theorem test_hyp_TrackerRequests :
    (0 : Byte).toNat < 1 ∧ (1 : Byte).toNat = (0 : Fin 12).val + 1 ∧ (12 : Byte).toNat = (11 : Fin 12).val + 1 ∧ 12 < (13 : Byte).toNat
      ∧ 1 < (2 : Byte).toNat ∧ State.reset.tracker.state.lift = none ∧ (gripped .opened []).tracker.state = .gripped lift0
      ∧ releaseHold.tracker.state = .releaseHold lift0 ⟨.bunk, 1, 0, 0⟩ 2 := by decide

/-- WeighRequestsOutcome, SET_WEIGH: a calibration, values at the ends of the ranges, and one just past. -/
theorem test_hyp_SetWeigh :
    (running (.zero 0 0 0)).op.slot = some (.zero 0 0 0) ∧ (Op.zero 0 0 0).kind ≠ .scanOnce ∧ State.reset.op.slot = none
      ∧ weighParamsOk ⟨64, 16, 500, 2000, 39999, 39998, 3000, 1250, 2000⟩ = true ∧ weighParamsOk ⟨8, 4, 1, 1, 101, 100, 0, 800, 0⟩ = true
      ∧ weighParamsOk ⟨8, 9, 1, 1, 101, 100, 0, 800, 0⟩ = false ∧ weighParamsOk ⟨8, 4, 1, 1, 100, 100, 0, 800, 0⟩ = false := by decide

/-- WeighRequestsOutcome, WEIGH_FLUSH and WEIGH_DISCARD: an OPEN, a FROZEN and a CLOSED window of a lift, and the window of a SPAN. -/
theorem test_hyp_FlushAndDiscard :
    (gripped .opened [1]).linkReady ∧ releaseHold.linkReady ∧ (gripped .opened [1]).weigh.flushable = true
      ∧ releaseHold.weigh.flushable = true ∧ (gripped (.closed .still) []).weigh.flushable = false
      ∧ (spanning []).weigh.flushable = false := ⟨⟨rfl, rfl⟩, ⟨rfl, rfl⟩, by decide⟩

/-- ScanCompletionFormsTheWeight and OverloadHysteresis: a weight of 1,178 − 0 in a lift, above the rated load of 1,000, at a scan that
is not releasing and at one that is; the table's cell, and no cell; the overload held at the clear level 950. -/
theorem test_hyp_Weight :
    let s := weighing (gripped .opened [])
    s.weigh.context = .lift context0 ∧ context0.latchScan ≠ s.time ∧ s.pose.crane = some crane0
      ∧ (scanView (raw 9831) s).cell = some (⟨9800, 620, 1000⟩, 4, 5) ∧ scanWeight (scanView (raw 9831) s) s = some 1178
      ∧ (scanView (raw 9831) s).scan.releasing s.weigh.params = false ∧ (scanView (raw 0) s).scan.releasing s.weigh.params = true
      ∧ (scanView (raw 0) (gripped .opened [])).cell = none ∧ clearLevel 1000 = 950
      ∧ overloadAfter true false 950 1000 = false ∧ overloadAfter true false 951 1000 = true ∧ overloadAfter false false 1000 1000 = false
      ∧ overloadAfter false false 1001 1000 = true ∧ overloadAfter false true 1001 1000 = false ∧ s.weigh.context.held = true := by decide

/-- ScanCompletionFormsTheWeight: the weight under a calibration context, with a tare of 20; while ZERO runs, with a tare in force that is
not taken off; none at the grip scan, none with neither a context nor ZERO. -/
theorem test_hyp_WeightFigures :
    let weight := fun s : State => scanWeight (scanView (raw 9831) (weighing s)) (weighing s)
    let cal := spanning []
    let zero := { running (.zero 0 0 0) with
      time := 2
      weigh := { State.reset.weigh with params := { State.reset.weigh.params with tare := 20 } } }
    weight { cal with weigh := { cal.weigh with context := .calibration ⟨64, 150, 1000, 20⟩ } } = some 1158
      ∧ weight zero = some 1178 ∧ zero.weigh.context = .absent
      ∧ weight { gripped .opened [] with time := 5 } = none ∧ context0.latchScan = 5 ∧ weight (at_ 2) = none := by decide

/-- WindowAtAScanCompletion, the judged scan: NONE opens in a weigh zone and stays NONE outside one, sets the table-missed flag without a
table; OPEN and SUSPENDED follow the zone; FROZEN and CLOSED stay; LIFT_P LOW closes FAULT; an accepted sample joins; the grip scan, the
thaw scan and a releasing scan are not judged. -/
theorem test_hyp_Window :
    let zone : ZoneEntry := ⟨some ⟨0, 0, -19999, 19999, -19999, 23999, .weigh⟩, .notJudged, false⟩
    let in_ := fun s : State => { weighing s with zones := { s.zones with entries := s.zones.entries.set 0 zone } }
    let after := fun (g : BitVec 16) (s : State) => windowAfter s.weigh (scanView (raw g) s) (scanWeight (scanView (raw g) s) s)
    let state := fun (f : State → State) (w : WindowState) => (after 9831 (f (gripped w []))).state
    let context := fun c : LiftContext => let s := gripped .suspended []; { s with weigh := { s.weigh with context := .lift c } }
    let past := { gripped .opened [90] with
      pose := { State.reset.pose with prev := some ⟨0, 0, some 10⟩ }
      weigh := { (gripped .opened [90]).weigh with newer := some ⟨true, some ⟨0, 100⟩⟩, older := some ⟨true, none⟩ } }
    let low := { in_ (gripped .opened [90]) with
      scanner := { State.reset.scanner with channels := State.reset.scanner.channels.set 0 ⟨2, 20000, 30000⟩ } }
    state in_ .unopened = .opened ∧ state weighing .unopened = .unopened ∧ (after 9831 (gripped .unopened [])).missed = true
      ∧ state in_ .opened = .opened ∧ state weighing .opened = .suspended ∧ state in_ .suspended = .opened
      ∧ state weighing .suspended = .suspended ∧ state in_ .frozen = .frozen ∧ state in_ (.closed .still) = .closed .still
      ∧ after 9831 low = ⟨.closed .fault, [90], false⟩
      ∧ (acceptedSample (in_ past).weigh 32767 (scanView (raw 9831) (in_ past)) (some 1178)) = some 1178
      ∧ after 9831 (in_ (context { context0 with latchScan := 2 })) = ⟨.suspended, [], false⟩
      ∧ after 9831 (in_ (context { context0 with thawScan := some 2 })) = ⟨.suspended, [], false⟩
      ∧ after 0 (in_ (gripped .suspended [])) = ⟨.suspended, [], false⟩ := by decide

/-- WindowAtAScanCompletion, the tracker's report and the history: grip, release, regrip, a release with a regrip interval of 0, the end
of CALIBRATION. -/
theorem test_window_tracker :
    let done := fun (g : BitVec 16) (s : State) =>
      (track (scanView (raw g) s) (beforeTrack ⟨State.reset.scanner.levels, 0, some 10⟩ (raw g) s)).1.weigh
    let once := gripped .opened []
    (done 9831 (at_ 2)).context = .lift ⟨32, 8, 40, 150, 1000, 0, .gripped, 2, none⟩
      ∧ (done 9831 (at_ 2)).window = ⟨.unopened, [], true⟩
      ∧ (done 0 (gripped .opened [])).context = .lift { context0 with phase := .released }
      ∧ (done 0 (gripped .opened [])).window.state = .frozen ∧ (done 9831 releaseHold).window.state = .suspended
      ∧ (done 9831 releaseHold).context = .lift { context0 with thawScan := some 2 }
      ∧ (done 0 { once with weigh := { once.weigh with params := { once.weigh.params with regrip := 0 } } }).context = .absent
      ∧ (done 0 (spanning [7])).context = .absent ∧ (done 0 (spanning [7])).window = ⟨.unopened, [], false⟩
      ∧ (State.reset.weigh.enterHistory (scanView (raw 9831) (at_ 2))).newer = some ⟨true, none⟩
      ∧ (State.reset.weigh.enterHistory (scanView (raw 0) (at_ 2))).newer = some ⟨false, none⟩ := by decide

/-- WindowResultAtFinalization: each window state and flag, the count at S and below it, a mean below 0, a mean at a half, a spread past
65,535. -/
theorem test_hyp_WindowResult :
    let result := fun (w : WindowState) (samples : List Int) (missed : Bool) =>
      ({ State.reset.weigh with context := .lift { context0 with still := 4 }, window := ⟨w, samples, missed⟩ } : Weigh).result
    result .suspended [1, 2, 3, 4] false = ⟨.short, some 3, 4, 3⟩ ∧ result .opened [1, 2, 3] false = ⟨.short, none, 3, 2⟩
      ∧ result .frozen [] false = ⟨.short, none, 0, 0⟩ ∧ result .unopened [] true = ⟨.noTable, none, 0, 0⟩
      ∧ result .unopened [] false = ⟨.never, none, 0, 0⟩ ∧ result (.closed .still) [9, 1, 1, 1, 1] false = ⟨.still, some 1, 5, 0⟩
      ∧ result (.closed .full) [9, 1, 1, 1, 1] false = ⟨.full, some 3, 5, 8⟩
      ∧ result (.closed .flushed) [-5, -5, -5, -4] false = ⟨.flushed, some 0, 4, 1⟩
      ∧ result (.closed .fault) [0, 65536] false = ⟨.fault, none, 2, 65535⟩ ∧ meanWeight [-1, 0] = 0 ∧ meanWeight [1, 2] = 2 := by decide

/-- SampleClosesWindow: the sample that closes STILL, one that closes FULL, one that leaves the window OPEN. -/
theorem test_hyp_SampleClosesWindow :
    liftBandFails (scanView (raw 9831) (at_ 2)).scan = false
      ∧ (Window.closeSteps 8 (some (4, 10)) ⟨.opened, [100, 110, 90, 100], false⟩).state = .closed .still
      ∧ (Window.closeSteps 8 (some (4, 10)) ⟨.opened, [1, 100, 200, 300, 400, 500, 600, 700], false⟩).state = .closed .full
      ∧ (Window.closeSteps 8 (some (4, 10)) ⟨.opened, [100, 110, 89, 100], false⟩).state = .opened := by decide

/-- LoadLiftApplies, UnloadLiftApplies, ShiftAndReturnLiftsApplyNothing, the tally's invariants: the tally after power-on, and a full
and an empty entry. -/
theorem test_hyp_Tally :
    Tally.reset.inRange ∧ Tally.reset.balances ∧ Tally.reset.freshWhenUnnumbered
      ∧ loadApplied ⟨99999, 0, 0, 0, 0, 0⟩ 900 = 0 ∧ unloadApplied ⟨0, 0, 0, 0, 0, 0⟩ 760 = 0
      ∧ unloadApplied ⟨700, 0, 0, 0, 0, 0⟩ 760 = 700 := by
  refine ⟨⟨?_, by decide⟩, by unfold Tally.balances; decide, ⟨by decide, ?_⟩, by decide⟩
  · unfold SortEntry.inRange; decide
  · decide

/-- TallyWritesOutcome, TallyAdjustOutcome, LoadCloseOutcome: limits 0, 1, 99,999 and 100,000; twelve weights, with one too large; a
numbered load; amounts above, below and at 0; close modes; one, two and no load records. -/
theorem test_hyp_TallyRequests :
    ¬(1 ≤ (0 : BitVec 24).toNat) ∧ 1 ≤ (1 : BitVec 24).toNat ∧ (99999 : BitVec 24).toNat ≤ 99999 ∧ ¬((100000 : BitVec 24).toNat ≤ 99999)
      ∧ (List.replicate 12 (99999 : BitVec 24)).length = 12 ∧ (100000 : BitVec 24) ∈ List.replicate 12 (100000 : BitVec 24)
      ∧ 99999 < (100000 : BitVec 24).toNat
      ∧ State.reset.tally.nextLift ≤ 1 ∧ 1 < Tally.reset.advance.nextLift
      ∧ (99999 : BitVec 24).toInt.natAbs ≤ 99999 ∧ (0xFE7961 : BitVec 24).toInt = -99999 ∧ 99999 < (0xFE7960 : BitVec 24).toInt.natAbs
      ∧ (0 : Byte) = CloseMode.carry.code ∧ (1 : Byte) = CloseMode.clear.code ∧ 1 < (2 : Byte).toNat
      ∧ 2 ≤ (held 0 2).records.loads ∧ (held 30 1).records.loads < 2 := by decide

/-- TallyAdjustOutcome, LoadCloseOutcome and the finalizations: an admission that reaches the threshold in POLLED, one that does not, one
in STREAM; a first fold and a second; a load record in POLLED and in STREAM. -/
theorem test_hyp_Ready :
    let stream := fun s : State => { s with records := { s.records with mode := .stream } }
    let adjust := fun s : State => (answerTallyAdjust 1 5 s).state.events
    let close := fun s : State => (answerLoadClose 0 s).state.events
    let folded := { held 30 0 with records := { (held 30 0).records with gap := ⟨1, 0, 0, 0⟩ } }
    (adjust (held 3 0)).detail .recordsReady = some (.recordsReady .threshold 4 0 0)
      ∧ (adjust (held 2 0)).detail .recordsReady = none ∧ (adjust (held 4 0)).detail .recordsReady = none
      ∧ (adjust (stream (held 3 0))).detail .recordsReady = none
      ∧ (adjust (held 30 0)).detail .recordGap = some (.recordGap 1 1 .adjust 30 0 0) ∧ (adjust folded).detail .recordGap = none
      ∧ (close (held 3 0)).detail .recordsReady = some (.recordsReady .load 3 1 0)
      ∧ (close (stream (held 3 0))).detail .recordsReady = none := by decide

/-- FetchRecordsOutcome, SetStreamOutcome: numbers 0, 1, 4 and 5; both modes; thresholds 0, 1, 30 and 31; a queue that is ready. -/
theorem test_hyp_RecordRequests :
    ¬(1 ≤ (0 : Byte).toNat) ∧ 1 ≤ (1 : Byte).toNat ∧ (4 : Byte).toNat ≤ 4 ∧ ¬((5 : Byte).toNat ≤ 4) ∧ (held 1 0).records.mode = .polled
      ∧ { (held 1 0).records with mode := .stream }.mode = .stream ∧ (0 : Byte) = StreamMode.polled.code
      ∧ (1 : Byte) = StreamMode.stream.code ∧ (0 : Byte).toNat < 1 ∧ 30 < (31 : Byte).toNat ∧ ¬(30 < (30 : Byte).toNat)
      ∧ 4 ≤ (held 4 0).records.records.length ∧ (held 0 1).records.loads ≠ 0 ∧ (held 3 0).records.records.length < 4 := by decide

/-- OperationRequestsOutcome: ZERO's conditions met and not; masses 99, 100, 10,000 and 10,001; SPAN's conditions met. -/
theorem test_hyp_OperationRequests :
    (let s := weighing State.reset;
      s.linkReady ∧ s.op.slot = none ∧ s.scanner.mode = .auto ∧ s.tracker.state = .empty ∧ s.table.state = .valid)
      ∧ State.reset.table.state ≠ .valid ∧ ¬(100 ≤ (99 : BitVec 16).toNat) ∧ 100 ≤ (100 : BitVec 16).toNat
      ∧ (10000 : BitVec 16).toNat ≤ 10000 ∧ ¬((10001 : BitVec 16).toNat ≤ 10000)
      ∧ (let s := weighing (gripped .unopened [])
        s.tracker.state = .gripped lift0 ∧ s.weigh.window.state = .unopened ∧ s.table.state = .valid ∧ s.op.slot = none)
      ∧ (running .scanOnce).op.slot = some .scanOnce ∧ (spanning []).op.slot = some (.span 1500) :=
  ⟨⟨⟨rfl, rfl⟩, by decide⟩, by decide⟩

/-- OperationsEndAtAScan: ZERO with 31 weights and with fewer, a weight and none; SPAN with 63 samples. -/
theorem test_hyp_OperationsEndAtAScan :
    (let s := weighing { running (.zero 31 0 7) with time := 2 };
      s.op.slot = some (.zero 31 0 7) ∧ (scanView (raw 0) s).scan.gripping s.weigh.params = false
        ∧ (scanView (raw 0) s).scan.gripIn = true ∧ scanWeight (scanView (raw 0) s) s = some 1178
        ∧ (scanView (raw 9831) s).scan.gripping s.weigh.params = true)
      ∧ (let s := { running (.zero 31 0 7) with time := 2 }; scanWeight (scanView (raw 0) s) s = none)
      ∧ (let s := { weighing (spanning (List.replicate 63 1470)) with weigh := { (spanning (List.replicate 63 1470)).weigh with
            newer := some ⟨true, some ⟨0, 0⟩⟩, older := some ⟨true, none⟩ } }
        let t := { s with pose := { s.pose with prev := some ⟨0, 0, some 10⟩ } }
        let v := scanView (raw 9831) t
        t.op.slot = some (.span 1500) ∧ t.weigh.window.state = .opened ∧ v.scan.releasing t.weigh.params = false
          ∧ liftBandFails v.scan = false ∧ acceptedSample t.weigh 150 v (scanWeight v t) = some 1178
          ∧ 63 ≤ t.weigh.window.samples.length) := by decide

/-- AuxLineCommandsOutcome: 19 ms and 20 ms, each mode, a bad mode and a bad polarity. -/
theorem test_hyp_AuxLines :
    (auxLine .off 19).linkReady ∧ ¬(20 ≤ ((auxLine .off 19).time - (auxLine .off 19).permit.aux[0].since).toNat)
      ∧ (auxLine .off 20).permit.aux[0].input ≠ (auxLine .off 20).permit.aux[0].level
      ∧ 20 ≤ ((auxLine .off 20).time - (auxLine .off 20).permit.aux[0].since).toNat ∧ (auxLine .off 20).permit.aux[0].mode = .off
      ∧ (auxLine .state 20).permit.aux[0].mode = .state ∧ (auxLine .mark 20).permit.aux[0].mode = .mark
      ∧ (auxLine .interlock 20).permit.aux[0].mode = .interlock ∧ 3 < (4 : Byte).toNat ∧ 1 < (2 : Byte).toNat
      ∧ ¬(3 < (3 : Byte).toNat) ∧ ¬(1 < (1 : Byte).toNat) := ⟨⟨rfl, rfl⟩, by decide⟩

/-- R161: as one INTERLOCK line opens and another closes at the same moment, both edges give one update: HOLD stands throughout, and
no PERMIT_HOLD is raised in between. -/
theorem test_interlock_edges :
    let p := State.reset.permit
    let aux := (p.aux.set 0 ⟨.interlock, true, true, false, 0, none⟩).set 1 ⟨.interlock, true, false, true, 0, none⟩
    let rows := { p.rows with interlock := rowHold }
    let s := { at_ 20 with permit := { p with aux := aux, rows := rows, outputs := rows.combine } }
    let t := auxDebounceExpiry 0 s
    t.permit.aux[0].level = true ∧ t.permit.aux[1].level = false ∧ t.permit.rows.interlock = rowHold
      ∧ t.events.detail .permitHold = none ∧ auxDebounceExpiry 1 t = t := by decide

/-- PermitHoldIsReported: lines in mode INTERLOCK at their edge, supervision at its expiry in both stages, STOPPED; and a step that takes
functions to HOLD: the sources are SUPERVISION alone, bit 6. -/
theorem test_hyp_PermitHold :
    (auxLine .interlock 20).permit.aux[0].debounceDue 20 = true ∧ (supervised ⟨500, .normal, some 0, none⟩).permit.sup.timerDue 0 = true
      ∧ (supervised ⟨500, .warned, some 0, none⟩).permit.sup.timerDue 0 = true ∧ (3 : Byte).toNat ≤ 3 ∧ (1 : Byte).toNat ≤ 1
      ∧ (supervised ⟨500, .stopped, none, none⟩).permit.sup.stage = .stopped
      ∧ (let s := supervised ⟨500, .warned, some 0, none⟩
        wentToHold s (superviseStop s) = ⟨true, true, true, true, true, false⟩
          ∧ (superviseStop s).permit.rows.allHoldSources = ⟨64, 64, 64, 64, 64, 0⟩) := by decide

/-- SupervisionCommandsOutcome: each stage with its timer at its expiry and not; intervals 0, 50, 100, 5,000 and 5,100. -/
theorem test_hyp_Supervision :
    (supervised ⟨500, .normal, some 0, none⟩).permit.sup.timer = some State.reset.time
      ∧ (supervised ⟨500, .warned, some 0, none⟩).permit.sup.stage = .warned
      ∧ (supervised ⟨500, .stopped, none, none⟩).permit.sup.timer ≠ some State.reset.time
      ∧ (supervised ⟨500, .normal, some 1, none⟩).permit.sup.timer ≠ some State.reset.time
      ∧ intervalOk 0 = true ∧ intervalOk 50 = false ∧ intervalOk 100 = true ∧ intervalOk 5000 = true ∧ intervalOk 5100 = false := by decide

/-- OccurrenceReachesTheEventUnit: in ITEMIZED a free place, a full queue, a disabled kind; in SUMMARY an armed flag, a disarmed one, and
an ATTENTION withdrawn when the raised set is empty; a kind that waits for a place. -/
theorem test_hyp_EventUnit :
    let e := State.reset.events
    let full := { e with queue := e.queue ++ ([.supervisionStop, .permitHold, .overload, .supervisionWarn, .channelBand, .refFault,
      .tableInvalid] : List Kind).map Notice.event }
    let d : Detail := .linkFault .kind 0
    let off : Detail := .lineState 0 true true 0
    (e.raise false d).queue = [.event .restarted, .event .linkFault] ∧ (e.raise false d).isPending .linkFault = false
      ∧ full.queue.length = 8 ∧ (full.raise false d).queue = full.queue ∧ (full.raise false d).isPending .linkFault = true
      ∧ (e.raise false off).queue = e.queue ∧ (e.raise false off).isPending .lineState = true
      ∧ (let m := { e with mode := .summary, queue := [] };
        (m.raise false d).queue = [.attention] ∧ (m.raise false d).armed = false
          ∧ ({ m with armed := false }.raise false d).queue = []
          ∧ ({ m with armed := false, queue := [.attention] }.raise false off).queue = []
          ∧ ({ m with armed := false, queue := [.attention] }.raise false off).armed = true)
      ∧ (let w := e.setPending .linkFault; w.isPending .linkFault = true ∧ w.isEnabled .linkFault = true ∧ w.hasNotice .linkFault = false)
      ∧ (∀ j, e.isPending j = true → e.isEnabled j = true → e.hasNotice j = true) := by
  refine ⟨by decide, by decide, by decide, by decide, by decide, by decide, by decide, by decide, by decide, ?_⟩
  intro j
  cases j <;> decide

/-- OccurrenceReachesTheEventUnit, settling: in ITEMIZED the waiting kinds in priority order, and one place for two of them; in SUMMARY an
ATTENTION queued, and withdrawn but for one in transmission. -/
theorem test_hyp_Settle :
    let e := (State.reset.events.setPending .linkFault).setPending .overload
    let seven := { e with queue := ([.supervisionStop, .permitHold, .supervisionWarn, .channelBand, .refFault, .tableInvalid,
      .restarted] : List Kind).map Notice.event }
    let m := { State.reset.events with mode := .summary, queue := [.attention], armed := false }
    (e.settle false).queue = ([.restarted, .overload, .linkFault] : List Kind).map Notice.event ∧ (e.settle false).pending = 0
      ∧ (seven.settle false).queue = seven.queue ++ [.event .overload] ∧ (seven.settle false).isPending .linkFault = true
      ∧ e.isPending .overload = true ∧ e.isEnabled .overload = true ∧ e.hasNotice .overload = false
      ∧ Kind.overload.prio < Kind.linkFault.prio
      ∧ ({ m with queue := [], armed := true }.setPending .overload).settle false = { m.setPending .overload with armed := false }
      ∧ (m.setPending .overload).settle false = m.setPending .overload
      ∧ m.raised = 0 ∧ (m.settle false).queue = [] ∧ (m.settle true).queue = [.attention] ∧ (m.settle true).armed = true := by decide

/-- EventRequestsOutcome: both modes, and a mode that is neither. -/
theorem test_hyp_EventRequests :
    (0 : Byte) = EventMode.itemized.code ∧ (1 : Byte) = EventMode.summary.code ∧ 1 < (2 : Byte).toNat
      ∧ State.reset.events.hasNotice .restarted = true := by decide

/-- EventRequestsOutcome, the queue (R175 to R177): a change of mode drops the notices that are not being transmitted, their kinds being
raised by the new mode; an unchanged mode keeps them; GET_EVENTS withdraws an ATTENTION that is not being transmitted. -/
theorem test_event_queue :
    let twoNotices := { State.reset.events with queue := [.event .linkFault, .event .tableInvalid] }
    let s := fun tx : Option TxFrame => { linked none [] tx with events := twoNotices }
    let summary := fun tx : Option TxFrame => { linked none [] tx with
      events := { State.reset.events.setPending .overload with mode := .summary, queue := [.attention], armed := false } }
    let set := fun (mode : Byte) (u : State) => (answerSetEvents mode powerOnMask u).state.events
    let get := fun u : State => (answerGetEvents u).state.events
    (set 1 (s none)).queue = [.attention] ∧ (set 1 (s none)).armed = false
      ∧ (set 1 (s none)).isPending .linkFault = true ∧ (set 1 (s none)).isPending .tableInvalid = true
      ∧ (set 1 (s (some ⟨.notice, []⟩))).queue = [.event .linkFault, .attention]
      ∧ (set 1 (s (some ⟨.notice, []⟩))).isPending .linkFault = false
      ∧ (set 0 (s none)).queue = twoNotices.queue ∧ (set 0 (summary none)).queue = [.event .overload]
      ∧ (get (summary none)).queue = [] ∧ (get (summary none)).armed = true ∧ (get (summary none)).pending = 0
      ∧ (get (summary (some ⟨.notice, []⟩))).queue = [.attention] ∧ (get (s none)).queue = twoNotices.queue := by decide

/-- LinkRequestsOutcome: speeds 3 and 4, KEEP 1 and 2, a code that is not listed, a wrong length. -/
theorem test_hyp_LinkRequests :
    (3 : Byte).toNat = (3 : Fin 4).val ∧ 4 ≤ (4 : Byte).toNat ∧ (1 : Byte) = boolByte true ∧ 2 ≤ (2 : Byte).toNat
      ∧ (0xFF : Byte).toNat ∉ requestCodes ∧ requestLength 0x72 = some 0 ∧ ([0] : List Byte).length ≠ 0 := by decide

/-- RequestsWaitAndAreTakenInOrder, AnswersKeepWhatTheyDoNotOwn, RequestFramesSpellTheirCommands: a full slot with three
and with four frames in the buffer; a free slot with one; a request command that is well formed and whose code is listed. -/
theorem test_hyp_Requests :
    requestOf (.ping 1) = some pingFrame ∧ (Instr.ping 1).wf = true ∧ pingFrame.code.toNat ∈ requestCodes
      ∧ (linked (some pingReply) (List.replicate 3 pingFrame) none).link.buffer.length < 4
      ∧ 4 ≤ (linked (some pingReply) (List.replicate 4 pingFrame) none).link.buffer.length
      ∧ (linked none [pingFrame] none).link.slot = none ∧ (linked none [pingFrame] none).link.buffer = pingFrame :: []
      ∧ (linked (some pingReply) [] none).link.slot = some pingReply := by decide

/-- ReceivedFrameRunsItsRequest and ReceiverFaults: a hunting receiver; a bad CHECK without a SYNC; a reply frame; a LEN of 2; a LEN past
250; a frame being received with and without a LEN, 20 ms and 19 ms after its last byte. -/
theorem test_hyp_Receiver :
    State.reset.link.rx = none ∧ lenInRange 2 = true ∧ lenInRange 250 = true ∧ lenInRange 251 = false ∧ lenInRange 1 = false
      ∧ ([0x51, 0] : List Byte).length = 2 ∧ ([0, 0] : List Byte) ≠ split16 (crc16 [2, 0x51, 0])
      ∧ syncByte ∉ ([2, 0x51, 0] : List Byte) ++ [0, 0] ∧ ([0x52, 0, 0] : List Byte).head? ≠ some kindRequest
      ∧ (let s := { at_ 20 with link := { State.reset.link with rx := some ⟨[4], 0⟩ } }
        s.link.rx = some ⟨[4], 0⟩ ∧ (0 : Time) + 20 = s.time ∧ (0 : Time) + 20 ≠ (19 : Time))
      ∧ (∀ p, State.reset.link.rx = some p → p.bytes = []) := by
  refine ⟨rfl, by decide, by decide, by decide, by decide, rfl, by decide, by decide, by decide, by decide, ?_⟩
  intro p h
  cases h

/-- ReceivedFrameRunsItsRequest, the good frame in each stage of supervision (R164). -/
theorem test_good_frame :
    let sup := fun v : Supervision => { supervised v with time := 9 }.goodFrame.permit.sup
    let warned := { supervised ⟨500, .warned, some 12, none⟩ with time := 9 }
    let w := { warned with permit := { warned.permit with rows := { warned.permit.rows with supervision := .const .slow } } }.goodFrame
    sup ⟨0, .off, none, none⟩ = ⟨0, .off, none, some 9⟩ ∧ sup ⟨500, .stopped, none, some 3⟩ = ⟨500, .stopped, none, some 9⟩
      ∧ sup ⟨500, .normal, some 12, none⟩ = ⟨500, .normal, some 509, some 9⟩ ∧ w.permit.sup = ⟨500, .normal, some 509, some 9⟩
      ∧ w.permit.rows.supervision = .const .free ∧ w.permit.outputs = w.permit.rows.combine := by decide

/-- ReceiverFaults, the hunt (R182): a further SYNC in a frame with a bad CHECK, where a good frame begins; a LEN out of range before a
good frame; bytes dropped before SYNC; a frame in two commands, the first part being held. -/
theorem test_hunt_on :
    let ping := RequestFrame.bytes ⟨9, 0x72, []⟩
    let served := fun s : State => (s.link.slot.map Reply.code, s.link.rx, s.events.count .linkFault)
    served (receive (0xC3 :: 5 :: ping) State.reset) = (some 0x72, none, 1)
      ∧ served (receive (0xC3 :: 1 :: ping) State.reset) = (some 0x72, none, 1)
      ∧ served (receive (0 :: 7 :: ping) State.reset) = (some 0x72, none, 0)
      ∧ served (receive (ping.take 4) (at_ 3)) = (none, some ⟨[3, 0x51, 9], 3⟩, 0)
      ∧ served (receive (ping.drop 4) (receive (ping.take 4) (at_ 3))) = (some 0x72, none, 0) := by decide

/-- The end of a reply with a request waiting and a notice offered: the request is taken in the same step, whatever the free choice. -/
theorem test_take_at_frame_end :
    let s := linked (some pingReply) [pingFrame, pingFrame] (some ⟨.reply, []⟩)
    (∃ f r, s.link.tx = some f ∧ f.owner = .reply ∧ s.link.slot = some r ∧ r.after = .nothing) ∧ s.events.queue ≠ []
      ∧ (takeNext { s with link := { s.link with slot := none, tx := none } }).link.slot = some (replyOf pingFrame (answerFrame pingFrame s)) :=
  ⟨⟨_, _, rfl, rfl, rfl, rfl⟩, by decide⟩

/-- FrameTransmittedOutcome: the end of a notice, of a record and of the replies to SET_LINK and RESET, each with a request waiting; the
record in STREAM with nothing else offered; the request is taken, or the buffer emptied by the link reset. -/
theorem test_hyp_FrameEnds :
    let quiet := fun s : State => { s with events := { s.events with queue := [] } }
    let notice := quiet (linked none [pingFrame] (some ⟨.notice, []⟩))
    let record := quiet { linked none [pingFrame] (some ⟨.record, []⟩) with
      records := { (held 1 0).records with mode := .stream, records := (held 1 0).records.records.map fun h => ⟨h.record, true⟩ } }
    let reply := fun a : AfterReply => quiet (linked (some { pingReply with after := a }) [pingFrame] (some ⟨.reply, []⟩))
    let served := fun s : State => let l := (frameTransmitted s).link; (l.slot.map Reply.code, l.buffer.length, l.tx.isNone)
    served notice = (some 0x72, 0, true) ∧ served record = (some 0x72, 0, true) ∧ (frameTransmitted record).records.records = []
      ∧ served (reply .nothing) = (some 0x72, 0, true) ∧ served (reply (.speed 2)) = (some 0x72, 0, true)
      ∧ (frameTransmitted (reply (.speed 2))).link.speed = 2 ∧ served (reply .linkReset) = (none, 0, true)
      ∧ served (quiet (linked (some pingReply) [pingFrame] (some ⟨.notice, []⟩))) = (some 0x72, 1, true) := by decide

/-- TransmitStartOrder and FrameTransmittedOutcome: a busy line; a reply in the slot; a notice in the queue; a record offered; a waiting
request with nothing offered; the end of each kind of frame. -/
theorem test_hyp_Transmit :
    (linked none [] (some ⟨.reply, []⟩)).link.tx ≠ none ∧ (linked (some pingReply) [] none).link.slot = some pingReply
      ∧ State.reset.events.queue = .event .restarted :: [] ∧ State.reset.records.offered = none
      ∧ ({ (held 1 0).records with mode := .stream }).offered.isSome = true
      ∧ (linked none [pingFrame] none).link.buffer = pingFrame :: [] ∧ pingReply.after = .nothing
      ∧ (linked (some { pingReply with after := .speed 2 }) [] (some ⟨.reply, []⟩)).link.slot = some { pingReply with after := .speed 2 }
      ∧ (linked (some { pingReply with after := .linkReset }) [] (some ⟨.reply, []⟩)).link.tx = some ⟨.reply, []⟩
      ∧ { State.reset.events with queue := [.attention] }.queue = .attention :: [] := by decide

/-- TransmitStartOrder, an EVENT notice with another kind pending and counted (R174): only the kind reported is cleared. -/
theorem test_notice_begins :
    let e := (State.reset.events.raise false (.linkFault .kind 0)).raise false (.linkFault .kind 0)
    let s := { State.reset with events := { e with queue := [.event .linkFault] }.raise false (.lineState 0 true true 0) }
    let t := (transmitStart s).events
    s.events.isPending .linkFault = true ∧ s.events.isPending .lineState = true ∧ t.isPending .linkFault = false
      ∧ t.count .linkFault = 0 ∧ t.isPending .lineState = true ∧ t.count .lineState = 1 ∧ t.queue = [.event .linkFault] := by decide

/-- FoldKeepsTheNetAmount: amounts with the signs the directions give, at the ends of the sums, and past them. -/
theorem test_hyp_Fold :
    (0 : Int) ≤ 1 ∧ (-1 : Int) ≤ 0 ∧ Gap.fold ⟨255, 16777214, 7, 0⟩ .load 1 = ⟨255, 16777215, 7, 0⟩
      ∧ Gap.fold ⟨3, 16777215, 9, 0⟩ .load 8 = ⟨4, 16777214, 0, 0⟩ ∧ Gap.fold ⟨0, 0, 0, 8388607⟩ .adjust 1 = ⟨1, 8388607, 0, 1⟩ := by decide

/-- The invariants of StepKeepsPermitsInAgreement, StepKeepsTheQueuesInBounds and StepKeepsTheCraneSideSafe hold in a state whose step
answers a next state. -/
theorem test_hyp_Invariants :
    (∃ t, step State.reset = .next t) ∧ State.reset.permitsAgree ∧ State.reset.records.inBounds ∧ State.reset.events.wf = true
      ∧ State.reset.events.settled ∧ State.reset.link.settled ∧ State.reset.permit.sup.consistent ∧ State.reset.table.consistent
      ∧ State.reset.craneSafe ∧ State.reset.scanOnTime := by
  refine ⟨⟨_, rfl⟩, by unfold State.permitsAgree; decide, by unfold RecordQueue.inBounds; decide, by decide,
    ⟨fun _ => .inr fun k hk => ?_, (nomatch ·), (nomatch ·), fun _ => rfl⟩, fun _ => rfl,
    by unfold Supervision.consistent; decide, by unfold Geometry.consistent; decide, ?_, ?_⟩
  · have none : State.reset.events.isPending k = false := by cases k <;> decide
    exact absurd (none.symm.trans hk.1) (by decide)
  · unfold State.craneSafe State.scannerFits Weigh.windowFits
    refine ⟨by decide, rfl, by decide, rfl, by decide⟩
  · refine ⟨fun run hr => ?_, fun e he => ?_⟩
    · cases hr
      refine ⟨by decide, fun e he => ?_⟩
      cases he
      decide
    · cases he
      decide

end Sys2Proof.Tests
end

section
/-! The geometry table's TABLE_WRITE (chapter 2, R32): what its answer is in each case, and that the command gives that answer. -/
namespace Sys2Proof.Machine

/-! ### A request command and the answer of its block -/

/-- A request command that finds the slot and the buffer empty leaves the state of its block's answer, with that answer in the slot
(R186). -/
theorem exec_of_answer {i : Instr} {f : RequestFrame} {n : Nat} {s t : State} {status : Status} {results : List Byte}
    (hf : requestOf i = some f) (hl : requestLength f.code.toNat = some n) (hn : f.values.length = n)
    (hc : commandOf f = some i) (hs : s.linkReady) (ha : answer i s = ⟨t, status, results, 0, .nothing⟩) :
    exec i s = .next (t.replied f.tag f.code status results) := by
  rw [exec_of_requestOf hf, offer_of_linkReady hs, takeRequest_of_command hl hn hc, ha]
  rfl

/-! ### TABLE_WRITE (R32) -/

/-- A TABLE_WRITE of eight cells has the length that R196 requires: the row number and 48 bytes of cells. -/
theorem frameTableWrite_values_length (tag row : Byte) {cells : List (BitVec 16 × BitVec 16 × BitVec 16)}
    (h : cells.length = 8) : (frameTableWrite tag row cells).values.length = 49 := by
  simp [frameTableWrite, Laws.splitCells_length, h]

/-- The frame of a TABLE_WRITE of eight cells is read back as that command (R196). -/
theorem commandOf_frameTableWrite (tag row : Byte) {cells : List (BitVec 16 × BitVec 16 × BitVec 16)} (h : cells.length = 8) :
    commandOf (frameTableWrite tag row cells) = some (.tableWrite tag row cells) := by
  simp [commandOf, frameTableWrite, Laws.splitCells_length, h]

/-- A TABLE_WRITE of eight cells that finds the slot and the buffer empty is answered by the geometry table at once. -/
theorem exec_tableWrite_of_answer (tag : Byte) {row : Byte} {cells : List (BitVec 16 × BitVec 16 × BitVec 16)} {s t : State}
    {status : Status} {results : List Byte} (hs : s.linkReady) (h : cells.length = 8)
    (ha : answerTableWrite row cells s = ⟨t, status, results, 0, .nothing⟩) :
    exec (.tableWrite tag row cells) s = .next (t.replied tag 0x21 status results) :=
  exec_of_answer (f := frameTableWrite tag row cells) rfl rfl (frameTableWrite_values_length tag row h)
    (commandOf_frameTableWrite tag row h) hs ha

/-- Outside LOADING the answer is STATE (R32, check 1). -/
theorem answerTableWrite_not_loading (row : Byte) (cells : List (BitVec 16 × BitVec 16 × BitVec 16)) {s : State}
    (h : s.table.state ≠ .loading) : answerTableWrite row cells s = .refuse .state s (tableWriteReply row s.table) :=
  if_pos h

/-- In LOADING a row number above 15 or a cell with k of 0 is answered RANGE (R32, check 2). -/
theorem answerTableWrite_range {row : Byte} {cells : List (BitVec 16 × BitVec 16 × BitVec 16)} {s : State}
    (h : s.table.state = .loading) (hbad : 16 ≤ row.toNat ∨ ∃ c ∈ cells, c.1 = 0) :
    answerTableWrite row cells s = .refuse .range s (tableWriteReply row s.table) := by
  unfold answerTableWrite
  rw [if_neg (not_not_intro h)]
  by_cases hrow : 16 ≤ row.toNat
  · rw [finOf_none hrow]
  · have hcell : (cells.any fun c => c.1 == 0) = true := by simpa using hbad.resolve_left hrow
    rw [finOf_some ⟨row.toNat, not_le.1 hrow⟩ rfl]
    exact if_pos hcell

/-- In LOADING a row of the table whose cells all have a k other than 0 is written (R32). -/
theorem answerTableWrite_written {row : Byte} {cells : List (BitVec 16 × BitVec 16 × BitVec 16)} {s : State} {r : Fin 16}
    (h : s.table.state = .loading) (hrow : row.toNat = r.val) (hcells : ¬∃ c ∈ cells, c.1 = 0) :
    answerTableWrite row cells s =
      .ok { s with table := { s.table with rows := s.table.rows.set r (some (cellsOf cells)) } }
        (tableWriteReply row { s.table with rows := s.table.rows.set r (some (cellsOf cells)) }) := by
  have hany : ¬(cells.any fun c => c.1 == 0) = true := by simpa using hcells
  unfold answerTableWrite
  rw [if_neg (not_not_intro h), finOf_some r hrow]
  exact if_neg hany

/-- The cell of a column holds the k, e and rated load carried for it. -/
theorem cellsOf_getElem {cells : List (BitVec 16 × BitVec 16 × BitVec 16)} {i : Fin 8} {k e l : BitVec 16}
    (h : cells[i.val]? = some (k, e, l)) : (cellsOf cells)[i] = ⟨k.toNat, e.toInt, l.toNat⟩ := by
  simp [cellsOf, List.getD_eq_getElem?_getD, h]

/-- Settles O16: each answer of R32, the two checks in their order and then the write, is the reply of the command. -/
theorem tableWriteOutcome : Obligations.TableWriteOutcome := by
  intro tag row cells s hs hlen badCell refusal
  refine ⟨fun hstate => ?refusedState, fun hstate hbad => ?refusedRange, fun r hstate hrow hgood => ?written⟩
  case refusedState => exact exec_tableWrite_of_answer tag hs hlen (answerTableWrite_not_loading row cells hstate)
  case refusedRange => exact exec_tableWrite_of_answer tag hs hlen (answerTableWrite_range hstate hbad)
  case written =>
    exact ⟨cellsOf cells, exec_tableWrite_of_answer tag hs hlen (answerTableWrite_written hstate hrow hgood),
      fun _ _ _ _ => cellsOf_getElem⟩

end Sys2Proof.Machine
end

section
/-! The zone table's sector test (chapter 3, R40): the angles it compares, and that containing the tip requires it. -/
namespace Sys2Proof.Machine

/-- The angle measured clockwise from a sector start, in tenths of a degree (R40). -/
def clockwiseFrom (start angle : Int) : Int := if angle < start then angle - start + 3600 else angle - start

/-- The sector test adds the turn to a negative difference: that is the angle measured clockwise. -/
theorem ite_sub_neg_eq_clockwiseFrom (start angle : Int) :
    (if angle - start < 0 then angle - start + 3600 else angle - start) = clockwiseFrom start angle := by
  simp only [clockwiseFrom, sub_neg]

/-- A sector whose ends are equal is the full circle (R40). -/
theorem inSector_of_ends_eq {z : Zone} (h : z.sectorStart = z.sectorEnd) (slew : Int) : inSector z slew = true :=
  if_pos h

/-- A sector whose ends differ contains the slews whose offset is not greater than its width (R40). -/
theorem inSector_iff_of_ends_ne {z : Zone} (h : z.sectorStart ≠ z.sectorEnd) (slew : Int) :
    inSector z slew = true ↔ clockwiseFrom z.sectorStart slew ≤ clockwiseFrom z.sectorStart z.sectorEnd := by
  simp only [inSector, if_neg h, ite_sub_neg_eq_clockwiseFrom, decide_eq_true_eq]

/-- The sector test in both cases (R40). -/
theorem inSector_iff (z : Zone) (slew : Int) : inSector z slew = true ↔
    z.sectorStart = z.sectorEnd ∨ clockwiseFrom z.sectorStart slew ≤ clockwiseFrom z.sectorStart z.sectorEnd := by
  by_cases h : z.sectorStart = z.sectorEnd
  · simp only [inSector_of_ends_eq h, h, true_or]
  · simp only [inSector_iff_of_ends_ne h, h, false_or]

/-- The slew of a pose is the scan's scaled SLEW value as it stands (R23). -/
@[simp] theorem solvePose_slew (crane : Option Crane) (prev : Option PrevScan) (period : Nat) (scan : Scan) :
    (solvePose crane prev period scan).slew = scan.scaled[6] := rfl

/-- An entry contains the tip when the sector contains the slew and the bounds hold reach and height (R41). -/
theorem Zone.contains_iff (z : Zone) (slew : Int) (p : Position) : z.contains slew p = true ↔ inSector z slew = true
    ∧ z.reachMin ≤ p.reach ∧ p.reach ≤ z.reachMax ∧ z.heightMin ≤ p.height ∧ p.height ≤ z.heightMax := by
  simp only [Zone.contains, Bool.and_eq_true, decide_eq_true_eq, and_assoc]

/-- Settles O18: offset and width are the angles measured clockwise from the sector start. -/
theorem sectorTest : Obligations.SectorTest := by
  refine ⟨fun z slew _ _ _ _ => ?offsetAgainstWidth, solvePose_slew, fun z slew p h => ((z.contains_iff slew p).1 h).1⟩
  case offsetAgainstWidth =>
    rw [inSector_iff]
    simp only [clockwiseFrom, Nat.cast_lt]

end Sys2Proof.Machine
end

section
/-! The direction of a lift (chapter 4, R64): a scan with an invalid pose finds no zone entry INSIDE (R42), so it has no bunk
indication (R43) and latches FIELD (R57, R58). -/
namespace Sys2Proof.Machine

/-! ### The direction that a record carries (R64) -/

/-- ADJUST is no direction of a lift: R116 keeps it for adjustment records. -/
theorem directionOf_ne_adjust (origin destination : Place) : directionOf origin destination ≠ .adjust := by
  cases origin <;> cases destination <;> decide

@[simp] theorem liftRecord_direction (t : Tally) (l : Lift) (rel : Release) (now : Time) (r : WindowResult) :
    (liftRecord t l rel now r).direction = directionOf l.origin rel.destination := rfl

/-! ### A scan with an invalid pose has no bunk indication (R42, R43) -/

/-- No entry is judged against an invalid pose (R42). -/
theorem judgeEntry_of_invalid {pose : Pose} (h : pose.valid = false) (contents : Option Zone) :
    judgeEntry pose contents = .notJudged := by
  cases contents with
  | none => rfl
  | some z => simp only [judgeEntry, h, Bool.false_eq_true, if_false]

/-- Without an entry INSIDE no kind enters the summary (R43). -/
theorem insideKinds_eq_nil {entries : Vector ZoneEntry 16} (h : ∀ e ∈ entries, e.result ≠ .inside) :
    insideKinds entries = [] := by
  refine List.filterMap_eq_nil_iff.2 fun e he => ?_
  exact if_neg (h e (Vector.mem_toList_iff.1 he))

theorem judge_result_ne_inside_of_invalid {pose : Pose} (h : pose.valid = false) (t : ZoneTable) :
    ∀ e ∈ (t.judge pose).entries, e.result ≠ .inside := by
  intro e he
  obtain ⟨i, hi, rfl⟩ := Vector.mem_iff_getElem.1 he
  simp only [ZoneTable.judge, Vector.getElem_ofFn, ZoneEntry.judge, judgeEntry_of_invalid h]
  decide

/-- The summary after a scan is the one of the entries as that scan judged them (R43). -/
theorem judge_summary (pose : Pose) (t : ZoneTable) : (t.judge pose).summary = some (summarize (t.judge pose).entries) := rfl

theorem summarize_bunk_of_no_insideKinds {entries : Vector ZoneEntry 16} (h : insideKinds entries = []) :
    (summarize entries).bunk = false := by
  simp only [summarize, h, List.any_nil]

/-- The summary of a scan with an invalid pose has no BUNK entry INSIDE (R43). -/
theorem judge_summary_bunk_of_invalid {pose : Pose} (h : pose.valid = false) (t : ZoneTable) :
    (t.judge pose).summary.any Summary.bunk = false := by
  rw [judge_summary, Option.any_some]
  exact summarize_bunk_of_no_insideKinds (insideKinds_eq_nil (judge_result_ne_inside_of_invalid h t))

theorem scanView_bunkZone_of_invalid {raw : Vector (BitVec 16) 12} {s : State} (h : (scanView raw s).pose.valid = false) :
    (scanView raw s).bunkZone = false := by
  rw [scanView_bunkZone]
  exact judge_summary_bunk_of_invalid h s.zones

/-! ### What a scan without a bunk indication latches (R57, R58) -/

theorem newLift_origin_of_not_bunkZone {v : ScanView} (h : v.bunkZone = false) (k : Tracker) : (newLift k v).origin = .field := by
  simp only [newLift, h, placeOf, Bool.false_eq_true, if_false]

theorem releaseOf_destination_of_not_bunkZone {v : ScanView} (h : v.bunkZone = false) : (releaseOf v).destination = .field := by
  simp only [releaseOf, h, placeOf, Bool.false_eq_true, if_false]

/-- Settles O23: the four directions are `directionOf`'s own equations, the record takes its direction from them, and an invalid pose
leaves both candidates without a bunk indication. -/
theorem liftDirection : Obligations.LiftDirection := by
  refine ⟨rfl, rfl, rfl, rfl, fun t l rel now r => ?record, fun raw s hinvalid => ?invalidPose⟩
  case record => exact ⟨liftRecord_direction t l rel now r, directionOf_ne_adjust l.origin rel.destination⟩
  case invalidPose =>
    have hbunk := scanView_bunkZone_of_invalid hinvalid
    exact ⟨newLift_origin_of_not_bunkZone hbunk, releaseOf_destination_of_not_bunkZone hbunk⟩

end Sys2Proof.Machine
end

section
/-! The weigh window's stillness and budget steps (chapter 5, R92, R93): when each closes the window, and with which samples. -/
namespace Sys2Proof.Machine

/-! ### The last samples and their exact mean (R92) -/

theorem sumInt_eq_sum (l : List Int) : sumInt l = l.sum := List.sum_eq_foldl.symm

theorem lastOf_length {n : Nat} {l : List Int} (h : n ≤ l.length) : (lastOf n l).length = n := by
  rw [lastOf, List.length_drop, Nat.sub_sub_self h]

/-- The stillness test without a division: each sample times the number of samples lies within the tolerance, as often, of the sum. -/
theorem stillSamples_iff (tolerance : Nat) (l : List Int) : stillSamples tolerance l = true ↔
    ∀ y ∈ l, y * l.length - l.sum ≤ (tolerance : Int) * l.length ∧ l.sum - y * l.length ≤ (tolerance : Int) * l.length := by
  simp only [stillSamples, List.all_eq_true, Bool.and_eq_true, decide_eq_true_eq, sumInt_eq_sum]
  refine forall₂_congr fun y _ => and_congr_right fun _ => ?_
  rw [neg_le, neg_sub]

/-- The samples pass the stillness test of R92: there are S of them, and the last S lie within the tolerance of their exact mean. -/
def lastStill (still tolerance : Nat) (samples : List Int) : Prop :=
  still ≤ samples.length ∧ ∀ y ∈ lastOf still samples, y * still - (lastOf still samples).sum ≤ (tolerance : Int) * still
    ∧ (lastOf still samples).sum - y * still ≤ (tolerance : Int) * still

/-- The condition of `closeSteps` under a stillness count is the stillness test of R92. -/
theorem lastStill_iff (still tolerance : Nat) (samples : List Int) :
    (some (still, tolerance)).any (fun x => x.1 ≤ samples.length && stillSamples x.2 (lastOf x.1 samples)) = true
      ↔ lastStill still tolerance samples := by
  rw [Option.any_some, Bool.and_eq_true, decide_eq_true_eq, lastStill]
  refine and_congr_right fun hlen => ?_
  rw [stillSamples_iff, lastOf_length hlen]

/-! ### The stillness step and the budget step (R92, R93) -/

namespace Window

theorem closeSteps_still {still tolerance : Nat} {w : Window} (h : lastStill still tolerance w.samples) (budget : Nat) :
    w.closeSteps budget (some (still, tolerance)) = { w with state := .closed .still } :=
  if_pos ((lastStill_iff ..).2 h)

theorem closeSteps_not_still {still tolerance : Nat} {w : Window} (h : ¬lastStill still tolerance w.samples) (budget : Nat) :
    w.closeSteps budget (some (still, tolerance)) = if budget ≤ w.samples.length then { w with state := .closed .full } else w :=
  if_neg (mt (lastStill_iff ..).1 h)

theorem closeSteps_full {budget still tolerance : Nat} {w : Window} (h : ¬lastStill still tolerance w.samples)
    (hfull : budget ≤ w.samples.length) :
    w.closeSteps budget (some (still, tolerance)) = { w with state := .closed .full } :=
  (closeSteps_not_still h budget).trans (if_pos hfull)

theorem closeSteps_open {budget still tolerance : Nat} {w : Window} (h : ¬lastStill still tolerance w.samples)
    (hroom : w.samples.length < budget) : w.closeSteps budget (some (still, tolerance)) = w :=
  (closeSteps_not_still h budget).trans (if_neg (not_le.2 hroom))

/-- The two steps change the state alone: the list and the table-missed flag stand. -/
theorem closeSteps_frame (budget : Nat) (still : Option (Nat × Nat)) (w : Window) :
    (w.closeSteps budget still).samples = w.samples ∧ (w.closeSteps budget still).missed = w.missed := by
  unfold closeSteps
  split
  · exact ⟨rfl, rfl⟩
  · split <;> exact ⟨rfl, rfl⟩

/-- The accepted sample of a scan without a fault joins the list of an OPEN window, and the stillness and budget steps follow (R89). -/
theorem laterSteps_of_sample {v : ScanView} {w : Window} (hopen : w.state = .opened) (hband : liftBandFails v.scan = false)
    (budget : Nat) (still : Option (Nat × Nat)) (x : Int) :
    w.laterSteps v budget still (some x) = { w with samples := w.samples ++ [x] }.closeSteps budget still := by
  rw [laterSteps, if_pos hopen, hband]
  rfl

end Window

/-- Settles O28: the sample joins, the stillness step comes before the budget step, and the two results are R96's by definition. -/
theorem sampleClosesWindow : Obligations.SampleClosesWindow := by
  intro v budget still tolerance x w hopen hband _ list last isStill t
  let joined : Window := { w with samples := list }
  have hsteps : t = joined.closeSteps budget (some (still, tolerance)) := Window.laterSteps_of_sample hopen hband ..
  obtain ⟨hsamples, hmissed⟩ := Window.closeSteps_frame budget (some (still, tolerance)) joined
  rw [hsteps]
  refine ⟨hsamples, hmissed, fun h => ?closesStill, fun h hfull => ?closesFull, fun h hroom => ?staysOpen, rfl, rfl⟩
  case closesStill => rw [Window.closeSteps_still (w := joined) h]
  case closesFull => rw [Window.closeSteps_full (w := joined) h hfull]
  case staysOpen => rw [Window.closeSteps_open (w := joined) h hroom]; exact hopen

end Sys2Proof.Machine
end

section
/-! What a lift applies to its sort entry (chapter 6, R107 to R110): the laws of the tally's operations, and from them the outcome of
a lift by its direction. -/
namespace Sys2Proof.Machine

/-! ### Counters and amounts -/

/-- Of a counter within its range, the step ends at the cap itself. -/
theorem satInc_of_le {cap n : Nat} (h : n ≤ cap) : satInc cap n = if n < cap then n + 1 else cap := by
  rw [satInc_eq]
  split
  · rfl
  · omega

@[simp] theorem loadApplied_zero (e : SortEntry) : loadApplied e 0 = 0 := Nat.zero_min _

@[simp] theorem unloadApplied_zero (e : SortEntry) : unloadApplied e 0 = 0 := Nat.zero_min _

theorem loadApplied_of_full {e : SortEntry} (h : e.bunk = 99999) (w : Nat) : loadApplied e w = 0 := by
  simp [loadApplied, h]

theorem unloadApplied_of_empty {e : SortEntry} (h : e.bunk = 0) (w : Nat) : unloadApplied e w = 0 := by
  simp [unloadApplied, h]

/-- A sort that holds less than the weight gives all it holds, where its unloaded amount has the room (R108). -/
theorem unloadApplied_of_bunk_lt {e : SortEntry} {w : Nat} (hless : e.bunk < w) (hroom : e.unloaded + e.bunk ≤ 16777215) :
    unloadApplied e w = e.bunk := by
  simp only [unloadApplied, maxSum]
  omega

/-! ### The excess, and what counts as unweighed (R107 to R110) -/

theorem liftExcess_load (e : SortEntry) (w : Nat) : liftExcess e .load (some w) = excessGiven (w - loadApplied e w) := rfl

theorem liftExcess_unload (e : SortEntry) (w : Nat) : liftExcess e .unload (some w) = excessGiven (w - unloadApplied e w) := by
  simp [liftExcess, liftApplied, Direction.changesBunk]

theorem liftExcess_of_not_changesBunk {d : Direction} (h : d.changesBunk = false) (e : SortEntry) (weight : Option Nat) :
    liftExcess e d weight = none := by
  simp [liftExcess, h]

@[simp] theorem liftExcess_none (e : SortEntry) (d : Direction) : liftExcess e d none = none := by
  simp [liftExcess]

@[simp] theorem liftApplied_none (e : SortEntry) (d : Direction) : liftApplied e d none = 0 := by
  cases d <;> simp [liftApplied]

@[simp] theorem unweighedLift_some (d : Direction) (w : Nat) : unweighedLift d (some w) = false := Bool.and_false _

@[simp] theorem unweighedLift_none (d : Direction) : unweighedLift d none = d.changesBunk := Bool.and_true _

theorem unweighedLift_of_not_changesBunk {d : Direction} (h : d.changesBunk = false) (weight : Option Nat) :
    unweighedLift d weight = false := by
  simp [unweighedLift, h]

/-! ### The sort entry after a lift -/

namespace SortEntry

theorem load_some {e : SortEntry} (h : e.inRange) (w : Nat) :
    e.load (some w) = { e with bunk := e.bunk + loadApplied e w, loaded := e.loaded + loadApplied e w,
                               loadLifts := if e.loadLifts < 255 then e.loadLifts + 1 else 255 } := by
  obtain ⟨_, _, _, _, _, hloads, _⟩ := h
  rw [← satInc_of_le hloads]
  rfl

theorem unload_some {e : SortEntry} (h : e.inRange) (w : Nat) :
    e.unload (some w) = { e with bunk := e.bunk - unloadApplied e w, unloaded := e.unloaded + unloadApplied e w,
                                 unloadLifts := if e.unloadLifts < 255 then e.unloadLifts + 1 else 255 } := by
  obtain ⟨_, _, _, _, _, _, hunloads⟩ := h
  rw [← satInc_of_le hunloads]
  rfl

/-- A lift without a weight does to the entry what one of weight 0 does: it is counted (R110). -/
theorem load_none {e : SortEntry} (h : e.inRange) :
    e.load none = { e with loadLifts := if e.loadLifts < 255 then e.loadLifts + 1 else 255 } := by
  calc e.load none = e.load (some 0) := rfl
    _ = _ := by simp only [load_some h, loadApplied_zero, Nat.add_zero]

theorem unload_none {e : SortEntry} (h : e.inRange) :
    e.unload none = { e with unloadLifts := if e.unloadLifts < 255 then e.unloadLifts + 1 else 255 } := by
  calc e.unload none = e.unload (some 0) := rfl
    _ = _ := by simp only [unload_some h, unloadApplied_zero, Nat.sub_zero, Nat.add_zero]

end SortEntry

/-! ### The tally after a lift -/

namespace Tally

@[simp] theorem setEntry_self (t : Tally) (sort : Fin 12) (e : SortEntry) : (t.setEntry sort e).entries[sort] = e := by
  simp [setEntry]

theorem setEntry_other {sort k : Fin 12} (h : k ≠ sort) (t : Tally) (e : SortEntry) :
    (t.setEntry sort e).entries[k] = t.entries[k] :=
  Vector.getElem_set_ne sort.isLt k.isLt fun hval => h (Fin.ext hval.symm)

/-- A LOAD lift replaces the entry of its sort, and no other (R107, R110). -/
theorem apply_load_entries (t : Tally) (sort : Fin 12) (weight : Option Nat) :
    (t.apply sort .load weight).entries = (t.setEntry sort (t.entries[sort].load weight)).entries := by
  cases weight <;> rfl

/-- An UNLOAD lift replaces the entry of its sort, and no other (R108, R110). -/
theorem apply_unload_entries (t : Tally) (sort : Fin 12) (weight : Option Nat) :
    (t.apply sort .unload weight).entries = (t.setEntry sort (t.entries[sort].unload weight)).entries := by
  cases weight <;> rfl

/-- The entry of a LOAD lift's own sort. -/
theorem apply_load_self (t : Tally) (sort : Fin 12) (weight : Option Nat) :
    (t.apply sort .load weight).entries[sort] = t.entries[sort].load weight := by
  rw [apply_load_entries, setEntry_self]

/-- The entry of an UNLOAD lift's own sort. -/
theorem apply_unload_self (t : Tally) (sort : Fin 12) (weight : Option Nat) :
    (t.apply sort .unload weight).entries[sort] = t.entries[sort].unload weight := by
  rw [apply_unload_entries, setEntry_self]

/-- Whatever its direction, a lift leaves the entries of the other sorts alone. -/
theorem apply_other {sort k : Fin 12} (h : k ≠ sort) (t : Tally) (d : Direction) (weight : Option Nat) :
    (t.apply sort d weight).entries[k] = t.entries[k] := by
  cases d with
  | load => rw [apply_load_entries, setEntry_other h]
  | unload => rw [apply_unload_entries, setEntry_other h]
  | shift => rfl
  | returned => rfl
  | adjust => cases weight <;> rfl

/-- The unweighed count advances with an unweighed lift and with no other (R110). -/
theorem apply_unweighed (t : Tally) (sort : Fin 12) (d : Direction) (weight : Option Nat) :
    (t.apply sort d weight).unweighed = if unweighedLift d weight then satInc 65535 t.unweighed else t.unweighed := by
  cases d <;> cases weight <;> rfl

theorem apply_unweighed_of_not {d : Direction} {weight : Option Nat} (h : unweighedLift d weight = false) (t : Tally)
    (sort : Fin 12) : (t.apply sort d weight).unweighed = t.unweighed := by
  simp [apply_unweighed, h]

/-- Without a weight, a lift that changes the bunk counts as unweighed (R110). -/
theorem apply_none_unweighed {d : Direction} {t : Tally} (hd : d.changesBunk = true) (h : t.unweighed ≤ 65535) (sort : Fin 12) :
    (t.apply sort d none).unweighed = if t.unweighed < 65535 then t.unweighed + 1 else 65535 := by
  rw [apply_unweighed, unweighedLift_none, if_pos hd, satInc_of_le h]

theorem apply_shift_shifts (t : Tally) (sort : Fin 12) (weight : Option Nat) :
    (t.apply sort .shift weight).shifts = satInc 65535 t.shifts := rfl

theorem apply_returned_returns (t : Tally) (sort : Fin 12) (weight : Option Nat) :
    (t.apply sort .returned weight).returns = satInc 65535 t.returns := rfl

end Tally

/-! ### The outcome by direction -/

/-- Settles O31: the entry, the excess and the unweighed count of a LOAD lift, with a weight and without. -/
theorem loadLiftApplies : Obligations.LoadLiftApplies := by
  intro t sort w ⟨hentries, _, _, _, _, _, _, hunweighed, _, _⟩ e applied new
  have he : e.inRange := hentries sort
  have hexcess : liftExcess e .load (some w) = if w - applied = 0 then none else some (w - applied) := liftExcess_load e w
  refine ⟨?entry, rfl, hexcess, fun hfull => ?fullBunk, fun hzero => ?weightZero, ?notCounted, unweighedLift_some _ _,
    ?entryWithoutWeight, Tally.apply_none_unweighed rfl hunweighed sort, liftApplied_none e .load, liftExcess_none e .load,
    unweighedLift_none .load, fun k weight hk => Tally.apply_other hk t .load weight⟩
  case entry => exact (t.apply_load_self sort (some w)).trans (SortEntry.load_some he w)
  case fullBunk =>
    have happlied : applied = 0 := loadApplied_of_full hfull w
    exact ⟨happlied, by rw [happlied, Nat.sub_zero]⟩
  case weightZero =>
    subst hzero
    exact ⟨loadApplied_zero e, hexcess.trans (if_pos (Nat.zero_sub _)), unweighedLift_some _ _⟩
  case notCounted => exact Tally.apply_unweighed_of_not (unweighedLift_some .load w) t sort
  case entryWithoutWeight => exact (t.apply_load_self sort none).trans (SortEntry.load_none he)

/-- Settles O32: the entry, the excess and the unweighed count of an UNLOAD lift, with a weight and without. -/
theorem unloadLiftApplies : Obligations.UnloadLiftApplies := by
  intro t sort w ⟨hentries, _, _, _, _, _, _, hunweighed, _, _⟩ e applied new
  have he : e.inRange := hentries sort
  have hnew : new = _ := (t.apply_unload_self sort (some w)).trans (SortEntry.unload_some he w)
  refine ⟨hnew, rfl, liftExcess_unload e w, fun hless hroom => ?bunkBecomesEmpty, fun hempty => ?emptyBunk, ?notCounted,
    unweighedLift_some _ _, ?entryWithoutWeight, Tally.apply_none_unweighed rfl hunweighed sort, liftApplied_none e .unload,
    liftExcess_none e .unload, unweighedLift_none .unload, fun k weight hk => Tally.apply_other hk t .unload weight⟩
  case bunkBecomesEmpty => rw [hnew, unloadApplied_of_bunk_lt hless hroom, Nat.sub_self]
  case emptyBunk =>
    have happlied : applied = 0 := unloadApplied_of_empty hempty w
    exact ⟨happlied, by rw [happlied, Nat.sub_zero]⟩
  case notCounted => exact Tally.apply_unweighed_of_not (unweighedLift_some .unload w) t sort
  case entryWithoutWeight => exact (t.apply_unload_self sort none).trans (SortEntry.unload_none he)

/-- Settles O33: neither direction changes the bunk, so nothing is applied, carried as excess or counted as unweighed; each has a
count of its own. -/
theorem shiftAndReturnLiftsApplyNothing : Obligations.ShiftAndReturnLiftsApplyNothing := by
  intro t sort weight ⟨_, _, _, _, _, hshifts, hreturns, _, _, _⟩
  have hshift : Direction.shift.changesBunk = false := rfl
  have hreturned : Direction.returned.changesBunk = false := rfl
  refine ⟨rfl, rfl, ?shiftCounts, ?returnCounts, rfl, rfl, ?shiftWeighed, ?returnWeighed, fun e => ?noExcess, fun _ _ _ _ => rfl⟩
  case shiftCounts => rw [Tally.apply_shift_shifts, satInc_of_le hshifts]
  case returnCounts => rw [Tally.apply_returned_returns, satInc_of_le hreturns]
  case shiftWeighed => exact Tally.apply_unweighed_of_not (unweighedLift_of_not_changesBunk hshift weight) t sort
  case returnWeighed => exact Tally.apply_unweighed_of_not (unweighedLift_of_not_changesBunk hreturned weight) t sort
  case noExcess =>
    exact ⟨rfl, rfl, liftExcess_of_not_changesBunk hshift e weight, liftExcess_of_not_changesBunk hreturned e weight⟩

end Sys2Proof.Machine
end

section
/-! What the answers of the blocks own (chapter 12, R196): which request can change which piece of state. -/
namespace Sys2Proof.Machine

/-! ### The pieces of state a request code owns -/

/-- From `s` to `t` nothing has changed but what a request of this code owns. -/
def State.ownedChange (code : Byte) (s t : State) : Prop :=
  t.time = s.time ∧ t.free = s.free ∧ t.pending = s.pending ∧ { t.link with keep := s.link.keep } = s.link
    ∧ (code ≠ 0x70 → t.link = s.link)
    ∧ (code ∉ [0x10, 0x11, 0x12, 0x52] → t.scanner = s.scanner)
    ∧ (code ≠ 0x18 → t.pose = s.pose)
    ∧ (code ∉ [0x20, 0x21, 0x22] → t.table = s.table)
    ∧ (code ∉ [0x28, 0x29] → t.zones = s.zones)
    ∧ (code ∉ [0x10, 0x30, 0x31, 0x51] → t.tracker = s.tracker)
    ∧ (code ∉ [0x38, 0x3A, 0x3B, 0x51, 0x52] → t.weigh = s.weigh)
    ∧ (code ∉ [0x12, 0x50, 0x51, 0x52] → t.op = s.op)
    ∧ (code ∉ [0x40, 0x41, 0x42, 0x43] → t.tally = s.tally)
    ∧ (code ∉ [0x41, 0x43, 0x48, 0x49] → t.records = s.records)
    ∧ (code ∉ [0x10, 0x20, 0x22, 0x59, 0x5B, 0x5C] → t.permit = s.permit)
    ∧ (code ≠ 0x43 → t.tally.loadNumber = s.tally.loadNumber)
    ∧ (code ≠ 0x5C → s.permit.sup.stage = .stopped → t.permit.sup.stage = .stopped)

@[simp] theorem State.ownedChange_refl (code : Byte) (s : State) : s.ownedChange code s := by
  simp [State.ownedChange, *]

/-- What the event unit becomes is nobody's own: every block's answer may raise. -/
theorem State.ownedChange.events {code : Byte} {s t : State} (h : s.ownedChange code t) (e : EventUnit) :
    s.ownedChange code { t with events := e } := h


/-! ### A row formed quietly leaves supervision alone -/

@[simp] theorem State.setModeRow_sup (s : State) (b : Bool) : (s.setModeRow b).permit.sup = s.permit.sup := rfl
@[simp] theorem State.setTableRow_sup (s : State) (b : Bool) : (s.setTableRow b).permit.sup = s.permit.sup := rfl

/-! ### What each request's answer changes -/

@[simp] theorem Answer.ok_state (s : State) (results : List Byte) : (Answer.ok s results).state = s := rfl
@[simp] theorem Answer.accepted_state (s : State) (results : List Byte) : (Answer.accepted s results).state = s := rfl
@[simp] theorem Answer.refuse_state (status : Status) (s : State) (results : List Byte) :
    (Answer.refuse status s results).state = s := rfl

section
variable (s : State)

theorem answerSetScan_ownedChange (mode period : Byte) : s.ownedChange 0x10 (answerSetScan mode period s).state := by
  unfold answerSetScan applySetScan
  dsimp only
  repeat' split
  all_goals simp [State.ownedChange, enterManual, leaveManual, State.setPeriod, *]

theorem answerSetChannel_ownedChange (channel level : Byte) (lower upper : BitVec 16) : s.ownedChange 0x11 (answerSetChannel channel level lower upper s).state := by
  unfold answerSetChannel
  dsimp only
  repeat' split
  all_goals simp [State.ownedChange, *]

theorem answerScanOnce_ownedChange  : s.ownedChange 0x12 (answerScanOnce  s).state := by
  unfold answerScanOnce
  dsimp only
  repeat' split
  all_goals simp [State.ownedChange, *]

theorem answerSetCrane_ownedChange (lb ls h ap ar : BitVec 16) : s.ownedChange 0x18 (answerSetCrane lb ls h ap ar s).state := by
  unfold answerSetCrane
  dsimp only
  repeat' split
  all_goals simp [State.ownedChange, *]

theorem answerTableBegin_ownedChange  : s.ownedChange 0x20 (answerTableBegin  s).state := by
  unfold answerTableBegin
  dsimp only
  repeat' split
  all_goals simp [State.ownedChange, *]

theorem answerTableWrite_ownedChange (row : Byte) (cells : List (BitVec 16 × BitVec 16 × BitVec 16)) : s.ownedChange 0x21 (answerTableWrite row cells s).state := by
  unfold answerTableWrite
  dsimp only
  repeat' split
  all_goals simp [State.ownedChange, *]

theorem answerTableEnd_ownedChange (check : BitVec 16) : s.ownedChange 0x22 (answerTableEnd check s).state := by
  unfold answerTableEnd
  dsimp only
  repeat' split
  all_goals simp [State.ownedChange, *]

theorem answerTableRead_ownedChange (row : Byte) : s.ownedChange 0x23 (answerTableRead row s).state := by
  unfold answerTableRead
  repeat' split
  all_goals simp [State.ownedChange, *]

theorem answerSetZone_ownedChange (index : Byte) (a b c d e f : BitVec 16) (kind fns : Byte) : s.ownedChange 0x28 (answerSetZone index a b c d e f kind fns s).state := by
  unfold answerSetZone
  dsimp only
  repeat' split
  all_goals simp [State.ownedChange, *]

theorem answerClearZone_ownedChange (index : Byte) : s.ownedChange 0x29 (answerClearZone index s).state := by
  unfold answerClearZone
  dsimp only
  repeat' split
  all_goals simp [State.ownedChange, *]

theorem answerGetZone_ownedChange (index : Byte) : s.ownedChange 0x2A (answerGetZone index s).state := by
  unfold answerGetZone
  dsimp only
  repeat' split
  all_goals simp [State.ownedChange, *]

theorem answerSetSort_ownedChange (sort apply : Byte) : s.ownedChange 0x30 (answerSetSort sort apply s).state := by
  unfold answerSetSort
  dsimp only
  repeat' split
  all_goals simp [State.ownedChange, *]

theorem answerMark_ownedChange  : s.ownedChange 0x31 (answerMark  s).state := by
  unfold answerMark
  repeat' split
  all_goals simp [State.ownedChange, *]

theorem answerSetWeigh_ownedChange (budget still : Byte) (a b c d e f g : BitVec 16) : s.ownedChange 0x38 (answerSetWeigh budget still a b c d e f g s).state := by
  unfold answerSetWeigh
  dsimp only
  repeat' split
  all_goals simp [State.ownedChange, *]

theorem answerWeighFlush_ownedChange  : s.ownedChange 0x3A (answerWeighFlush  s).state := by
  unfold answerWeighFlush
  dsimp only
  repeat' split
  all_goals simp [State.ownedChange, *]

theorem answerWeighDiscard_ownedChange  : s.ownedChange 0x3B (answerWeighDiscard  s).state := by
  unfold answerWeighDiscard
  dsimp only
  repeat' split
  all_goals simp [State.ownedChange, *]

theorem answerSetPayload_ownedChange (limit : BitVec 24) : s.ownedChange 0x40 (answerSetPayload limit s).state := by
  unfold answerSetPayload
  dsimp only
  repeat' split
  all_goals simp [State.ownedChange, *]

theorem answerTallyAdjust_ownedChange (sort : Byte) (amount : BitVec 24) : s.ownedChange 0x41 (answerTallyAdjust sort amount s).state := by
  unfold answerTallyAdjust
  dsimp only
  repeat' split
  all_goals simp [State.ownedChange, Tally.adjust, Tally.setEntry, Tally.advance, *]

theorem answerTallySet_ownedChange (weights : List (BitVec 24)) : s.ownedChange 0x42 (answerTallySet weights s).state := by
  unfold answerTallySet
  dsimp only
  repeat' split
  all_goals simp [State.ownedChange, Tally.setWeights, *]

theorem answerLoadClose_ownedChange (closeMode : Byte) : s.ownedChange 0x43 (answerLoadClose closeMode s).state := by
  unfold answerLoadClose
  dsimp only
  repeat' split
  all_goals simp [State.ownedChange, *]

theorem answerFetchRecords_ownedChange (number : Byte) : s.ownedChange 0x48 (answerFetchRecords number s).state := by
  unfold answerFetchRecords
  dsimp only
  repeat' split
  all_goals simp [State.ownedChange, *]

theorem answerSetStream_ownedChange (mode threshold : Byte) : s.ownedChange 0x49 (answerSetStream mode threshold s).state := by
  unfold answerSetStream
  dsimp only
  repeat' split
  all_goals simp [State.ownedChange, *]

theorem answerZero_ownedChange  : s.ownedChange 0x50 (answerZero  s).state := by
  unfold answerZero
  dsimp only
  repeat' split
  all_goals simp [State.ownedChange, *]

theorem answerSpan_ownedChange (mass : BitVec 16) : s.ownedChange 0x51 (answerSpan mass s).state := by
  unfold answerSpan
  repeat' split
  all_goals simp [State.ownedChange, startSpan, *]

theorem answerOpAbort_ownedChange  : s.ownedChange 0x52 (answerOpAbort  s).state := by
  unfold answerOpAbort
  repeat' split
  all_goals simp [State.ownedChange, *]

theorem answerSetLines_ownedChange (m0 p0 m1 p1 m2 p2 m3 p3 : Byte) : s.ownedChange 0x59 (answerSetLines m0 p0 m1 p1 m2 p2 m3 p3 s).state := by
  unfold answerSetLines
  dsimp only
  repeat' split
  all_goals simp [State.ownedChange, State.refreshInterlock, PermitUnit.formInterlock, *]

theorem answerSetSupervision_ownedChange (interval : BitVec 16) : s.ownedChange 0x5B (answerSetSupervision interval s).state := by
  unfold answerSetSupervision
  dsimp only
  repeat' split
  all_goals simp [State.ownedChange, *]

theorem answerResume_ownedChange  : s.ownedChange 0x5C (answerResume  s).state := by
  unfold answerResume
  dsimp only
  repeat' split
  all_goals simp [State.ownedChange, *]

theorem answerSetEvents_ownedChange (mode : Byte) (mask : BitVec 16) : s.ownedChange 0x60 (answerSetEvents mode mask s).state := by
  unfold answerSetEvents
  repeat' split
  all_goals simp [State.ownedChange, *]

theorem answerGetDetail_ownedChange (kind : Byte) : s.ownedChange 0x62 (answerGetDetail kind s).state := by
  unfold answerGetDetail
  dsimp only
  repeat' split
  all_goals simp [State.ownedChange, *]

theorem answerSetLink_ownedChange (speed keep : Byte) : s.ownedChange 0x70 (answerSetLink speed keep s).state := by
  unfold answerSetLink
  dsimp only
  repeat' split
  all_goals simp [State.ownedChange, *]

end

/-- The requests that only read change nothing, and a command that is no request is answered without effect. -/
theorem answer_ownedChange {i : Instr} {f : RequestFrame} (hf : requestOf i = some f) (s : State) :
    s.ownedChange f.code (answer i s).state := by
  cases i
  all_goals cases hf
  case setScan => exact answerSetScan_ownedChange s _ _
  case setChannel => exact answerSetChannel_ownedChange s _ _ _ _
  case scanOnce => exact answerScanOnce_ownedChange s
  case setCrane => exact answerSetCrane_ownedChange s _ _ _ _ _
  case tableBegin => exact answerTableBegin_ownedChange s
  case tableWrite => exact answerTableWrite_ownedChange s _ _
  case tableEnd => exact answerTableEnd_ownedChange s _
  case tableRead => exact answerTableRead_ownedChange s _
  case setZone => exact answerSetZone_ownedChange s _ _ _ _ _ _ _ _ _
  case clearZone => exact answerClearZone_ownedChange s _
  case getZone => exact answerGetZone_ownedChange s _
  case setSort => exact answerSetSort_ownedChange s _ _
  case mark => exact answerMark_ownedChange s
  case setWeigh => exact answerSetWeigh_ownedChange s _ _ _ _ _ _ _ _ _
  case weighFlush => exact answerWeighFlush_ownedChange s
  case weighDiscard => exact answerWeighDiscard_ownedChange s
  case setPayload => exact answerSetPayload_ownedChange s _
  case tallyAdjust => exact answerTallyAdjust_ownedChange s _ _
  case tallySet => exact answerTallySet_ownedChange s _
  case loadClose => exact answerLoadClose_ownedChange s _
  case fetchRecords => exact answerFetchRecords_ownedChange s _
  case setStream => exact answerSetStream_ownedChange s _ _
  case zero => exact answerZero_ownedChange s
  case span => exact answerSpan_ownedChange s _
  case opAbort => exact answerOpAbort_ownedChange s
  case setLines => exact answerSetLines_ownedChange s _ _ _ _ _ _ _ _
  case setSupervision => exact answerSetSupervision_ownedChange s _
  case resume => exact answerResume_ownedChange s
  case setEvents => exact answerSetEvents_ownedChange s _ _
  case getDetail => exact answerGetDetail_ownedChange s _
  case setLink => exact answerSetLink_ownedChange s _ _
  case getEvents => exact (State.ownedChange_refl _ s).events _
  all_goals exact State.ownedChange_refl _ s

/-- Settles O50: block by block, an answer writes only what its code owns. -/
theorem answersKeepWhatTheyDoNotOwn : Obligations.AnswersKeepWhatTheyDoNotOwn :=
  fun _ _ s hf => answer_ownedChange hf s

end Sys2Proof.Machine
end

section
/-! What the commands leave of the blocks they do not serve: the answer to a request by its code, a link reset, supervision, the edge of
an aux line. The invariants and the outcome statements cite these. -/
namespace Sys2Proof.Machine

/-! ### Answers by request code (R186, R196) -/

/-- The command is no request of one of these codes. -/
def avoids (codes : List Byte) (i : Instr) : Bool := (requestOf i).all fun f => decide (f.code ∉ codes)

theorem avoids_mono {codes more : List Byte} {i : Instr} (h : avoids more i = true) (hsub : codes ⊆ more) : avoids codes i = true := by
  unfold avoids at h ⊢
  cases hf : requestOf i with
  | none => rfl
  | some f =>
    simp only [hf, Option.all_some, decide_eq_true_eq] at h ⊢
    exact fun hm => h (hsub hm)

/-- Only a command that is a request is answered with an effect. -/
theorem answer_of_no_request {i : Instr} (h : requestOf i = none) (s : State) : answer i s = .refuse .unknown s [] := by
  cases i <;> first | rfl | cases h

/-- A piece of state that is owned by some codes stays under the answer to any other command. -/
theorem answer_field {α : Type} {field : State → α} {codes : List Byte} {i : Instr} (h : avoids codes i = true)
    (owned : ∀ {code : Byte} {s t : State}, s.ownedChange code t → code ∉ codes → field t = field s) (s : State) :
    field (answer i s).state = field s := by
  cases hf : requestOf i with
  | none => rw [answer_of_no_request hf]; rfl
  | some f =>
    refine owned (answer_ownedChange hf s) ?_
    simpa [avoids, hf] using h

section
variable {i : Instr} (s : State)

theorem answer_pending : (answer i s).state.pending = s.pending := by
  refine answer_field (codes := []) ?_ (fun ⟨_, _, hpending, _⟩ _ => hpending) s
  cases h : requestOf i <;> simp [avoids, h]
theorem answer_time : (answer i s).state.time = s.time := by
  refine answer_field (codes := []) ?_ (fun ⟨htime, _⟩ _ => htime) s
  cases h : requestOf i <;> simp [avoids, h]
theorem answer_scanner (h : avoids [0x10, 0x11, 0x12, 0x52] i = true) : (answer i s).state.scanner = s.scanner :=
  answer_field h (fun ⟨_, _, _, _, _, own, _⟩ => own) s
theorem answer_pose (h : avoids [0x18] i = true) : (answer i s).state.pose = s.pose :=
  answer_field h (fun ⟨_, _, _, _, _, _, own, _⟩ hc => own (by simpa using hc)) s
theorem answer_table (h : avoids [0x20, 0x21, 0x22] i = true) : (answer i s).state.table = s.table :=
  answer_field h (fun ⟨_, _, _, _, _, _, _, own, _⟩ => own) s
theorem answer_zones (h : avoids [0x28, 0x29] i = true) : (answer i s).state.zones = s.zones :=
  answer_field h (fun ⟨_, _, _, _, _, _, _, _, own, _⟩ => own) s
theorem answer_tracker (h : avoids [0x10, 0x30, 0x31, 0x51] i = true) : (answer i s).state.tracker = s.tracker :=
  answer_field h (fun ⟨_, _, _, _, _, _, _, _, _, own, _⟩ => own) s
theorem answer_weigh (h : avoids [0x38, 0x3A, 0x3B, 0x51, 0x52] i = true) : (answer i s).state.weigh = s.weigh :=
  answer_field h (fun ⟨_, _, _, _, _, _, _, _, _, _, own, _⟩ => own) s
theorem answer_op (h : avoids [0x12, 0x50, 0x51, 0x52] i = true) : (answer i s).state.op = s.op :=
  answer_field h (fun ⟨_, _, _, _, _, _, _, _, _, _, _, own, _⟩ => own) s
theorem answer_tally (h : avoids [0x40, 0x41, 0x42, 0x43] i = true) : (answer i s).state.tally = s.tally :=
  answer_field h (fun ⟨_, _, _, _, _, _, _, _, _, _, _, _, own, _⟩ => own) s
theorem answer_records (h : avoids [0x41, 0x43, 0x48, 0x49] i = true) : (answer i s).state.records = s.records :=
  answer_field h (fun ⟨_, _, _, _, _, _, _, _, _, _, _, _, _, own, _⟩ => own) s
theorem answer_permit (h : avoids [0x10, 0x20, 0x22, 0x59, 0x5B, 0x5C] i = true) : (answer i s).state.permit = s.permit :=
  answer_field h (fun ⟨_, _, _, _, _, _, _, _, _, _, _, _, _, _, own, _⟩ => own) s

end

/-! ### Supervision at a good frame and at a link reset (R164, R168) -/

section
variable (s : State)

@[simp] theorem goodFrame_time : s.goodFrame.time = s.time := by
  have h := congrArg State.time (goodFrame_frame s)
  exact h
@[simp] theorem goodFrame_scanner : s.goodFrame.scanner = s.scanner := by
  have h := congrArg State.scanner (goodFrame_frame s)
  exact h
@[simp] theorem goodFrame_pose : s.goodFrame.pose = s.pose := by
  have h := congrArg State.pose (goodFrame_frame s)
  exact h
@[simp] theorem goodFrame_table : s.goodFrame.table = s.table := by
  have h := congrArg State.table (goodFrame_frame s)
  exact h
@[simp] theorem goodFrame_zones : s.goodFrame.zones = s.zones := by
  have h := congrArg State.zones (goodFrame_frame s)
  exact h
@[simp] theorem goodFrame_tracker : s.goodFrame.tracker = s.tracker := by
  have h := congrArg State.tracker (goodFrame_frame s)
  exact h
@[simp] theorem goodFrame_weigh : s.goodFrame.weigh = s.weigh := by
  have h := congrArg State.weigh (goodFrame_frame s)
  exact h
@[simp] theorem goodFrame_op : s.goodFrame.op = s.op := by
  have h := congrArg State.op (goodFrame_frame s)
  exact h
@[simp] theorem goodFrame_tally : s.goodFrame.tally = s.tally := by
  have h := congrArg State.tally (goodFrame_frame s)
  exact h
@[simp] theorem goodFrame_records : s.goodFrame.records = s.records := by
  have h := congrArg State.records (goodFrame_frame s)
  exact h
@[simp] theorem goodFrame_link : s.goodFrame.link = s.link := by
  have h := congrArg State.link (goodFrame_frame s)
  exact h
@[simp] theorem goodFrame_free : s.goodFrame.free = s.free := by
  have h := congrArg State.free (goodFrame_frame s)
  exact h
@[simp] theorem goodFrame_pending : s.goodFrame.pending = s.pending := by
  have h := congrArg State.pending (goodFrame_frame s)
  exact h

@[simp] theorem supervisionLinkReset_time : s.supervisionLinkReset.time = s.time := by
  have h := congrArg State.time (supervisionLinkReset_frame s)
  exact h
@[simp] theorem supervisionLinkReset_scanner : s.supervisionLinkReset.scanner = s.scanner := by
  have h := congrArg State.scanner (supervisionLinkReset_frame s)
  exact h
@[simp] theorem supervisionLinkReset_pose : s.supervisionLinkReset.pose = s.pose := by
  have h := congrArg State.pose (supervisionLinkReset_frame s)
  exact h
@[simp] theorem supervisionLinkReset_table : s.supervisionLinkReset.table = s.table := by
  have h := congrArg State.table (supervisionLinkReset_frame s)
  exact h
@[simp] theorem supervisionLinkReset_zones : s.supervisionLinkReset.zones = s.zones := by
  have h := congrArg State.zones (supervisionLinkReset_frame s)
  exact h
@[simp] theorem supervisionLinkReset_tracker : s.supervisionLinkReset.tracker = s.tracker := by
  have h := congrArg State.tracker (supervisionLinkReset_frame s)
  exact h
@[simp] theorem supervisionLinkReset_weigh : s.supervisionLinkReset.weigh = s.weigh := by
  have h := congrArg State.weigh (supervisionLinkReset_frame s)
  exact h
@[simp] theorem supervisionLinkReset_op : s.supervisionLinkReset.op = s.op := by
  have h := congrArg State.op (supervisionLinkReset_frame s)
  exact h
@[simp] theorem supervisionLinkReset_tally : s.supervisionLinkReset.tally = s.tally := by
  have h := congrArg State.tally (supervisionLinkReset_frame s)
  exact h
@[simp] theorem supervisionLinkReset_records : s.supervisionLinkReset.records = s.records := by
  have h := congrArg State.records (supervisionLinkReset_frame s)
  exact h
@[simp] theorem supervisionLinkReset_free : s.supervisionLinkReset.free = s.free := by
  have h := congrArg State.free (supervisionLinkReset_frame s)
  exact h
@[simp] theorem supervisionLinkReset_pending : s.supervisionLinkReset.pending = s.pending := by
  have h := congrArg State.pending (supervisionLinkReset_frame s)
  exact h

end

/-! ### A link reset (R191) -/

section
variable (cause : StartCause) (s : State)

@[simp] theorem linkReset_time : (linkReset cause s).time = s.time := by
  simp [linkReset, linkResetBlocks]
@[simp] theorem linkReset_pose : (linkReset cause s).pose = s.pose := by
  simp [linkReset, linkResetBlocks]
@[simp] theorem linkReset_zones : (linkReset cause s).zones = s.zones := by
  simp [linkReset, linkResetBlocks]
@[simp] theorem linkReset_tracker : (linkReset cause s).tracker = s.tracker := by
  simp [linkReset, linkResetBlocks]
@[simp] theorem linkReset_tally : (linkReset cause s).tally = s.tally := by
  simp [linkReset, linkResetBlocks]
@[simp] theorem linkReset_pending : (linkReset cause s).pending = s.pending := by
  simp [linkReset, linkResetBlocks]
@[simp] theorem linkReset_table : (linkReset cause s).table = s.table.linkReset := by
  simp [linkReset, linkResetBlocks]
@[simp] theorem linkReset_records : (linkReset cause s).records = s.records.linkReset s.link.keep := by
  simp [linkReset, linkResetBlocks]
@[simp] theorem linkReset_link : (linkReset cause s).link = s.link.linkReset cause := by
  simp [linkReset, linkResetBlocks]
@[simp] theorem linkReset_scanner : (linkReset cause s).scanner = (abortState .linkReset s).scanner := by
  simp [linkReset, linkResetBlocks]
@[simp] theorem linkReset_weigh : (linkReset cause s).weigh = (abortState .linkReset s).weigh := by
  simp [linkReset, linkResetBlocks]
@[simp] theorem linkReset_op : (linkReset cause s).op = (abortState .linkReset s).op := by
  simp [linkReset, linkResetBlocks]

/-- The rows, the outputs, the lines and supervision are those that supervision leaves at the reset. -/
theorem linkReset_permit : (linkReset cause s).permit = s.supervisionLinkReset.permit := by
  simp only [linkReset, State.raiseAll_permit]
  unfold State.supervisionLinkReset
  simp only [linkResetBlocks, abortState_permit, abortState_time]
  split <;> rfl

end

/-! ### The commands of time (R61, R160, R165) -/

/-- The edge of an aux line touches the permit unit, the event unit and the MARKED flag of a lift only (R161). -/
theorem auxDebounceExpiry_frame (line : Fin 4) (s : State) :
    { auxDebounceExpiry line s with permit := s.permit, events := s.events, tracker := s.tracker } = s := by
  unfold auxDebounceExpiry edgeEffect
  dsimp only
  split
  · split <;> rfl
  · rfl

/-- The finalization at the end of the regrip time touches tracker, weigh unit, tally, record queue, permit unit and event unit only. -/
theorem regripTimerExpiry_frame (s : State) : { regripTimerExpiry s with
    tracker := s.tracker, weigh := s.weigh, tally := s.tally, records := s.records, permit := s.permit, events := s.events } = s := by
  unfold regripTimerExpiry
  split
  · split <;> rfl
  all_goals rfl

/-- The supervision timer touches the permit unit, the event unit, and what an abort touches (R165). -/
theorem supervisionTimerExpiry_frame (s : State) : { supervisionTimerExpiry s with
    scanner := s.scanner, weigh := s.weigh, op := s.op, permit := s.permit, events := s.events } = s := by
  unfold supervisionTimerExpiry
  split
  · split
    · rfl
    · simp [superviseStop]
    · rfl
    · rfl
  · rfl

/-- The scan timer touches the scanner only (R5). -/
theorem scanTimerExpiry_frame (s : State) : { scanTimerExpiry s with scanner := s.scanner } = s := by
  unfold scanTimerExpiry
  split <;> rfl

/-- A change of an aux input touches the permit unit only (R160). -/
theorem auxInputChange_frame (line : Fin 4) (high : Bool) (s : State) : { auxInputChange line high s with permit := s.permit } = s := by
  unfold auxInputChange
  dsimp only
  split <;> rfl

section
variable (s : State)

@[simp] theorem scanTimerExpiry_pending : (scanTimerExpiry s).pending = s.pending := by
  have h := congrArg State.pending (scanTimerExpiry_frame s)
  exact h
@[simp] theorem regripTimerExpiry_pending : (regripTimerExpiry s).pending = s.pending := by
  have h := congrArg State.pending (regripTimerExpiry_frame s)
  exact h
@[simp] theorem auxInputChange_pending (line : Fin 4) (high : Bool) : (auxInputChange line high s).pending = s.pending := by
  have h := congrArg State.pending (auxInputChange_frame line high s)
  exact h
@[simp] theorem auxDebounceExpiry_pending (line : Fin 4) : (auxDebounceExpiry line s).pending = s.pending := by
  have h := congrArg State.pending (auxDebounceExpiry_frame line s)
  exact h
@[simp] theorem supervisionTimerExpiry_pending : (supervisionTimerExpiry s).pending = s.pending := by
  have h := congrArg State.pending (supervisionTimerExpiry_frame s)
  exact h

end

/-! ### Every command completes, and leaves the queue behind it -/

/-- No command touches the queue of commands. -/
theorem pending_kept (queue : List Instr) : Kept fun s => s.pending = queue where
  link _ _ h := h
  raise _ _ h := h
  noticeBegun _ _ h := h
  noticeSent _ h := h
  free _ _ h := h
  answer _ s h := (answer_pending s).trans h
  goodFrame s h := (goodFrame_pending s).trans h
  powerOn _ _ h := h
  linkReset cause s h := (linkReset_pending cause s).trans h
  mark _ _ h := h
  remove _ _ h := h
  scanTimer s h := (scanTimerExpiry_pending s).trans h
  scan run raw s _ h := (completeScan_pending run raw s).trans h
  regrip s h := (regripTimerExpiry_pending s).trans h
  auxInput line high s h := (auxInputChange_pending s line high).trans h
  auxDebounce line s h := (auxDebounceExpiry_pending s line).trans h
  supervision s h := (supervisionTimerExpiry_pending s).trans h

/-- Every command answers a next state. -/
theorem exec_completes (c : Instr) (s : State) : ∃ t, exec c s = .next t := by
  cases c <;> exact ⟨_, rfl⟩

/-- Settles O2: the queue is one of the things that every command keeps. -/
theorem commandsAlwaysCompleteAndKeepTheQueue : Obligations.CommandsAlwaysCompleteAndKeepTheQueue := by
  intro c s
  obtain ⟨t, ht⟩ := exec_completes c s
  exact ⟨t, ht, (pending_kept s.pending).exec c s t rfl ht⟩

/-- With nothing due the block only counts a millisecond (R1). -/
theorem idle_of_nothing_due {s : State} (h : ∀ l ∈ due s, l = []) : idle s = { s with time := s.time + 1 } := by
  have hflat : (due s).flatten.isEmpty = true := by simpa [List.flatten_eq_nil_iff] using h
  exact if_pos hflat

theorem step_of_empty {s : State} (h : s.pending = []) : step s = .next (idle s) := by
  simp only [step, h]

/-- Settles O1: the two branches of the step. -/
theorem stepRunsTheFrontCommand : Obligations.StepRunsTheFrontCommand := by
  refine ⟨fun c rest s h => ?front, fun s h => step_of_empty h, fun s h hdue => ?nothingDue⟩
  case front => simp only [step, h]
  case nothingDue => rw [step_of_empty h, idle_of_nothing_due hdue]

end Sys2Proof.Machine
end

section
/-! The tally's invariant (chapter 6, R104, R105, R121): every figure in its range, the load balanced, a load without numbers without
amounts. -/
namespace Sys2Proof.Machine

/-! ### Sums over the twelve sorts -/

namespace Tally

/-- The sum of a figure changes by the difference at the one entry replaced. -/
theorem sumOf_setEntry (f : SortEntry → Int) (t : Tally) (sort : Fin 12) (e : SortEntry) :
    (t.setEntry sort e).sumOf f = t.sumOf f + (f e - f t.entries[sort]) := by
  have hl : sort.val < (t.entries.toList.map f).length := by simp
  simp only [sumOf, setEntry, sumInt_eq_sum, Vector.toList_set, List.map_set, List.sum_set', dif_pos hl]
  simp
  omega

/-- The bunk total is the sum of the bunk weights (R104). -/
theorem total_eq_sumOf (t : Tally) : (t.total : Int) = t.sumOf fun e => e.bunk := by
  simp only [total, sumOf, sumInt_eq_sum, Nat.cast_list_sum, List.map_map]
  rfl

/-- A figure that is 0 in every entry sums to 0. -/
theorem sumOf_eq_zero {f : SortEntry → Int} {t : Tally} (h : ∀ k : Fin 12, f t.entries[k] = 0) : t.sumOf f = 0 := by
  rw [sumOf, sumInt_eq_sum]
  refine List.sum_eq_zero fun x hx => ?_
  obtain ⟨e, he, rfl⟩ := List.mem_map.1 hx
  obtain ⟨i, hi, rfl⟩ := Vector.mem_iff_getElem.1 (Vector.mem_toList_iff.1 he)
  exact h ⟨i, hi⟩

/-- A load without amounts balances where its total is its opening total (R121). -/
theorem balances_of_no_amounts {t : Tally} (htotal : t.total = t.opening)
    (h : ∀ k : Fin 12, t.entries[k].loaded = 0 ∧ t.entries[k].unloaded = 0 ∧ t.entries[k].adjusted = 0) : t.balances := by
  have hloaded : t.sumOf (fun e => e.loaded) = 0 := sumOf_eq_zero fun k => congrArg Nat.cast (h k).1
  have hunloaded : t.sumOf (fun e => e.unloaded) = 0 := sumOf_eq_zero fun k => congrArg Nat.cast (h k).2.1
  have hadjusted : t.sumOf SortEntry.adjusted = 0 := sumOf_eq_zero fun k => (h k).2.2
  unfold balances
  omega

/-! ### The invariant -/

/-- In range, balanced, and without amounts before the first number. -/
def sound (t : Tally) : Prop := t.inRange ∧ t.balances ∧ t.freshWhenUnnumbered

/-- In range and balanced, with a lift number given: then amounts may stand. -/
def numbered (t : Tally) : Prop := t.inRange ∧ t.balances ∧ 1 < t.nextLift

theorem numbered.sound {t : Tally} : t.numbered → t.sound := by
  rintro ⟨hrange, hbalances, hnext⟩
  exact ⟨hrange, hbalances, hnext.le, fun h => absurd h hnext.ne'⟩

/-- A lift number is given by advancing it (R105). -/
theorem sound.advance {t : Tally} : t.sound → t.advance.numbered := by
  rintro ⟨⟨hentries, hload1, hload2, hnext1, hnext2, hrest⟩, hbalances, _⟩
  have hnext : 1 < satInc 65535 t.nextLift ∧ satInc 65535 t.nextLift ≤ 65535 := by
    rw [satInc_eq]
    split <;> omega
  exact ⟨⟨hentries, hload1, hload2, hnext.1.le, hnext.2, hrest⟩, hbalances, hnext.1⟩

/-- An entry may be replaced by one in range whose bunk weight moves with its amounts. -/
theorem numbered.setEntry {t : Tally} (h : t.numbered) {sort : Fin 12} {e : SortEntry} (he : e.inRange)
    (hmoves : (e.bunk : Int) - e.loaded - e.adjusted + e.unloaded
      = t.entries[sort].bunk - t.entries[sort].loaded - t.entries[sort].adjusted + t.entries[sort].unloaded) :
    (t.setEntry sort e).numbered := by
  obtain ⟨⟨hentries, hrest⟩, hbalances, hnext⟩ := h
  refine ⟨⟨fun k => ?_, hrest⟩, ?_, hnext⟩
  · by_cases hk : k = sort
    · rw [hk, setEntry_self]
      exact he
    · rw [setEntry_other hk]
      exact hentries k
  · have hopening : (t.setEntry sort e).opening = t.opening := rfl
    unfold balances at hbalances ⊢
    rw [total_eq_sumOf] at hbalances ⊢
    rw [sumOf_setEntry, sumOf_setEntry, sumOf_setEntry, sumOf_setEntry, hopening]
    omega

theorem satInc_le {cap n : Nat} (h : n ≤ cap) : satInc cap n ≤ cap := by
  rw [satInc_eq]
  split <;> omega

/-! ### A lift, an adjustment (R107 to R110, R115) -/

theorem load_inRange {e : SortEntry} (h : e.inRange) (weight : Option Nat) : (e.load weight).inRange := by
  obtain ⟨hbunk, hloaded, hunloaded, hadj1, hadj2, hloads, hunloads⟩ := h
  refine ⟨?_, ?_, hunloaded, hadj1, hadj2, satInc_le hloads, hunloads⟩
  all_goals simp only [SortEntry.load, loadApplied, maxBunk, maxSum]; omega

theorem unload_inRange {e : SortEntry} (h : e.inRange) (weight : Option Nat) : (e.unload weight).inRange := by
  obtain ⟨hbunk, hloaded, hunloaded, hadj1, hadj2, hloads, hunloads⟩ := h
  refine ⟨?_, hloaded, ?_, hadj1, hadj2, hloads, satInc_le hunloads⟩
  all_goals simp only [SortEntry.unload, unloadApplied, maxSum]; omega

/-- An unloaded amount is one that the bunk holds (R108). -/
theorem unloadApplied_le_bunk (e : SortEntry) (w : Nat) : unloadApplied e w ≤ e.bunk := by
  unfold unloadApplied
  omega

/-- An adjustment leaves the bunk weight and the adjusted amount in their ranges (R115). -/
theorem adjustApplied_bounds {e : SortEntry} (h : e.inRange) (a : Int) :
    0 ≤ e.bunk + adjustApplied e a ∧ e.bunk + adjustApplied e a ≤ 99999
      ∧ -8388608 ≤ e.adjusted + adjustApplied e a ∧ e.adjusted + adjustApplied e a ≤ 8388607 := by
  obtain ⟨hbunk, _, _, hadj1, hadj2, _, _⟩ := h
  unfold adjustApplied maxBunk
  split
  · omega
  · split <;> omega

theorem adjust_inRange {e : SortEntry} (h : e.inRange) (a : Int) : (e.adjust a).inRange := by
  obtain ⟨hbunk0, hbunk, hadj1, hadj2⟩ := adjustApplied_bounds h a
  obtain ⟨_, hloaded, hunloaded, _, _, hloads, hunloads⟩ := h
  refine ⟨?_, hloaded, hunloaded, hadj1, hadj2, hloads, hunloads⟩
  simp only [SortEntry.adjust]
  omega

/-- A lift keeps the tally sound, whatever its direction (R106). -/
theorem sound.apply {t : Tally} (h : t.sound) (sort : Fin 12) (d : Direction) (weight : Option Nat) :
    (t.apply sort d weight).sound := by
  have hentry : t.entries[sort].inRange := h.1.1 sort
  obtain ⟨⟨hentries, hload1, hload2, hnext1, hnext2, hshifts, hreturns, hunweighed, hlimit⟩, hbalances, hnext⟩ := h.advance
  have hcounted : (if unweighedLift d weight then { t.advance with unweighed := satInc 65535 t.advance.unweighed }
      else t.advance).numbered := by
    split
    · exact ⟨⟨hentries, hload1, hload2, hnext1, hnext2, hshifts, hreturns, satInc_le hunweighed, hlimit⟩, hbalances, hnext⟩
    · exact ⟨⟨hentries, hload1, hload2, hnext1, hnext2, hshifts, hreturns, hunweighed, hlimit⟩, hbalances, hnext⟩
  have hsame : (if unweighedLift d weight then { t.advance with unweighed := satInc 65535 t.advance.unweighed }
      else t.advance).entries = t.entries := by
    split <;> rfl
  unfold Tally.apply
  dsimp only
  generalize (if unweighedLift d weight then { t.advance with unweighed := satInc 65535 t.advance.unweighed }
      else t.advance) = u at hcounted hsame
  refine numbered.sound ?_
  cases d with
  | load =>
    refine hcounted.setEntry (hsame ▸ load_inRange hentry weight) ?_
    simp only [hsame, SortEntry.load]
    omega
  | unload =>
    refine hcounted.setEntry (hsame ▸ unload_inRange hentry weight) ?_
    have := unloadApplied_le_bunk t.entries[sort] (weight.getD 0)
    simp only [hsame, SortEntry.unload]
    omega
  | shift =>
    obtain ⟨⟨hentries, hload1, hload2, hnext1, hnext2, hshifts, hrest⟩, hbalances, hnext⟩ := hcounted
    exact ⟨⟨hentries, hload1, hload2, hnext1, hnext2, satInc_le hshifts, hrest⟩, hbalances, hnext⟩
  | returned =>
    obtain ⟨⟨hentries, hload1, hload2, hnext1, hnext2, hshifts, hreturns, hrest⟩, hbalances, hnext⟩ := hcounted
    exact ⟨⟨hentries, hload1, hload2, hnext1, hnext2, hshifts, satInc_le hreturns, hrest⟩, hbalances, hnext⟩
  | adjust => exact hcounted

/-- An adjustment keeps the tally sound (R115). -/
theorem sound.adjust {t : Tally} (h : t.sound) (sort : Fin 12) (a : Int) : (t.adjust sort a).sound := by
  have hentry : t.entries[sort].inRange := h.1.1 sort
  have hbounds := adjustApplied_bounds hentry a
  refine (h.advance.setEntry (adjust_inRange hentry a) ?_).sound
  simp only [SortEntry.adjust, Tally.advance]
  omega

/-! ### TALLY_SET, LOAD_CLOSE, SET_PAYLOAD (R112, R117, R120) -/

/-- The weights of a TALLY_SET, written to a load without amounts (R117). -/
theorem sound.setWeights {t : Tally} (h : t.sound) (hnext : ¬1 < t.nextLift) {weights : List (BitVec 24)}
    (hweights : ¬(weights.any fun w => maxBunk < w.toNat) = true) : (t.setWeights weights).sound := by
  obtain ⟨⟨hentries, hrest⟩, _, hnext1, hfresh⟩ := h
  have hamounts := hfresh (by omega)
  have hbunk : ∀ i : Nat, (weights.getD i 0).toNat ≤ 99999 := by
    intro i
    rw [List.getD_eq_getElem?_getD]
    cases hi : weights[i]? with
    | none => simp
    | some w =>
      rw [List.any_eq_true] at hweights
      have : ¬maxBunk < w.toNat := fun hw => hweights ⟨w, List.mem_of_getElem? hi, decide_eq_true hw⟩
      simpa using this
  have hentry : ∀ k : Fin 12, (t.setWeights weights).entries[k] = { t.entries[k] with bunk := (weights.getD k.val 0).toNat } := by
    intro k
    simp [Tally.setWeights]
  have hnone : ∀ k : Fin 12, (t.setWeights weights).entries[k].loaded = 0 ∧ (t.setWeights weights).entries[k].unloaded = 0
      ∧ (t.setWeights weights).entries[k].adjusted = 0 := by
    intro k
    rw [hentry]
    exact hamounts k
  refine ⟨⟨fun k => ?_, hrest⟩, balances_of_no_amounts rfl hnone, hnext1, fun _ => hnone⟩
  rw [hentry]
  obtain ⟨_, hothers⟩ := hentries k
  exact ⟨hbunk k, hothers⟩

/-- What the new load holds is its opening total (R120). -/
theorem newLoad_total (t : Tally) (mode : CloseMode) (now : Time) : (t.newLoad mode now).total = (t.newLoad mode now).opening := by
  have hbunks : (t.newLoad mode now).entries.toList.map SortEntry.bunk
      = t.entries.toList.map fun e => if mode = .carry then e.bunk else 0 := by
    apply List.ext_getElem <;> simp [Tally.newLoad, SortEntry.renew]
  rw [total, hbunks]
  cases mode with
  | carry => rfl
  | clear => simp [Tally.newLoad]

/-- The new load opens with what it holds, in range and without amounts (R120). -/
theorem sound.newLoad {t : Tally} (h : t.sound) (mode : CloseMode) (now : Time) : (t.newLoad mode now).sound := by
  obtain ⟨⟨hentries, hload1, hload2, _, _, _, _, _, hlimit⟩, _, _⟩ := h
  have hentry : ∀ k : Fin 12, (t.newLoad mode now).entries[k] = t.entries[k].renew mode := by
    intro k
    simp [Tally.newLoad]
  have hnone : ∀ k : Fin 12, (t.newLoad mode now).entries[k].loaded = 0 ∧ (t.newLoad mode now).entries[k].unloaded = 0
      ∧ (t.newLoad mode now).entries[k].adjusted = 0 := by
    intro k
    rw [hentry]
    exact ⟨rfl, rfl, rfl⟩
  refine ⟨⟨fun k => ?_, ?_, ?_, Nat.le_refl 1, Nat.le_of_ble_eq_true rfl, Nat.zero_le _, Nat.zero_le _, Nat.zero_le _, hlimit⟩,
    balances_of_no_amounts (newLoad_total t mode now) hnone, Nat.le_refl 1, fun _ => hnone⟩
  · rw [hentry]
    obtain ⟨hbunk, _⟩ := hentries k
    simp only [SortEntry.inRange, SortEntry.renew]
    split <;> omega
  · simp only [Tally.newLoad]
    split <;> omega
  · simp only [Tally.newLoad]
    split <;> omega

end Tally

/-! ### The commands -/

/-- The tally at power-on (R124). -/
theorem Tally.reset_sound : Tally.reset.sound := by
  have hnone : ∀ k : Fin 12, Tally.reset.entries[k] = ⟨0, 0, 0, 0, 0, 0⟩ := fun k => by simp [Tally.reset]
  have hamounts : ∀ k : Fin 12, Tally.reset.entries[k].loaded = 0 ∧ Tally.reset.entries[k].unloaded = 0
      ∧ Tally.reset.entries[k].adjusted = 0 := fun k => by simp only [hnone, and_self]
  exact ⟨⟨fun k => by simp [hnone k, SortEntry.inRange], by decide⟩, balances_of_no_amounts rfl hamounts, by decide,
    fun _ => hamounts⟩

/-- The tracker leaves the tally as it is, or applies the lift it finalizes (R63). -/
theorem track_tally (v : ScanView) (s : State) :
    (track v s).1.tally = s.tally ∨ ∃ sort d weight, (track v s).1.tally = s.tally.apply sort d weight := by
  unfold track trackGripping trackReleasing
  split
  · split <;> exact .inl rfl
  · split
    · split
      · split
        · exact .inr ⟨_, _, _, rfl⟩
        · exact .inl rfl
      all_goals exact .inl rfl
    · exact .inl rfl

theorem answer_keeps_tally_sound (i : Instr) {s : State} (h : s.tally.sound) : (answer i s).state.tally.sound := by
  by_cases hi : avoids [0x40, 0x41, 0x42, 0x43] i = true
  · exact (answer_tally s hi).symm ▸ h
  cases i
  case unknownRequest => exact h
  case setPayload tag limit =>
    simp only [answer, answerSetPayload]
    split
    · exact h
    · next hlimit =>
      obtain ⟨⟨hentries, hload1, hload2, hnext1, hnext2, hshifts, hreturns, hunweighed, _⟩, hrest⟩ := h
      have : 1 ≤ limit.toNat ∧ limit.toNat ≤ 99999 := by simpa [maxBunk, Nat.one_le_iff_ne_zero] using hlimit
      exact ⟨⟨hentries, hload1, hload2, hnext1, hnext2, hshifts, hreturns, hunweighed, this⟩, hrest⟩
  case tallyAdjust tag sort amount =>
    simp only [answer, answerTallyAdjust]
    split
    · exact h
    · split
      · exact h
      · exact h.adjust _ _
  case tallySet tag weights =>
    simp only [answer, answerTallySet]
    split
    · exact h
    · next hnext =>
      split
      · exact h
      · next hweights => exact h.setWeights hnext hweights
  case loadClose tag closeMode =>
    simp only [answer, answerLoadClose]
    split
    · exact h
    · split
      · exact h
      · exact h.newLoad _ _
  all_goals exact absurd rfl hi

theorem tally_sound_kept : Kept fun s => s.tally.sound where
  link _ _ h := h
  raise _ _ h := h
  noticeBegun _ _ h := h
  noticeSent _ h := h
  free _ _ h := h
  answer i _ h := answer_keeps_tally_sound i h
  goodFrame s h := (goodFrame_tally s).symm ▸ h
  powerOn _ _ _ := Tally.reset_sound
  linkReset cause s h := (linkReset_tally cause s).symm ▸ h
  mark _ _ h := h
  remove _ _ h := h
  scanTimer s h := by
    have := congrArg State.tally (scanTimerExpiry_frame s)
    exact this.symm ▸ h
  scan run raw s _ h := by
    show (completeScan run raw s).tally.sound
    rw [completeScan_tally]
    obtain heq | ⟨sort, d, weight, heq⟩ := track_tally (scanView raw s) (beforeTrack run raw s)
    · exact heq.symm ▸ h
    · exact heq.symm ▸ Tally.sound.apply (t := s.tally) h sort d weight
  regrip s h := by
    show (regripTimerExpiry s).tally.sound
    unfold regripTimerExpiry
    split
    · split
      · exact h.apply _ _ _
      · exact h
    all_goals exact h
  auxInput line high s h := by
    have := congrArg State.tally (auxInputChange_frame line high s)
    exact this.symm ▸ h
  auxDebounce line s h := by
    have := congrArg State.tally (auxDebounceExpiry_frame line s)
    exact this.symm ▸ h
  supervision s h := by
    have := congrArg State.tally (supervisionTimerExpiry_frame s)
    exact this.symm ▸ h

/-- Settles O57: the three parts go together, so they are one invariant. -/
theorem stepKeepsTheTallyBalanced : Obligations.StepKeepsTheTallyBalanced :=
  fun s t hrange hbalances hfresh hstep =>
    tally_sound_kept.step (fun _ _ h => h) (fun _ _ h => h) s t ⟨hrange, hbalances, hfresh⟩ hstep

end Sys2Proof.Machine
end

section
/-! The permit unit's invariant (chapter 9, R154 to R156): the rows of the contribution table are those of their sources' conditions, and
the outputs the most restrictive contributions. -/
namespace Sys2Proof.Machine

/-! ### The rows that the sources' conditions ask for -/

/-- The contribution table that the conditions of the seven sources ask for (R154, R156). -/
def State.sourceRows (s : State) : Contributions where
  zone := zoneRow s.zones.summary
  overload := if s.weigh.overload then rowOverload else rowNone
  pose := if s.pose.latest.any Pose.valid then rowNone else rowSlowAll
  table := if s.table.state = .valid then rowNone else rowTable
  mode := if s.scanner.mode = .manual then rowSlowAll else rowNone
  interlock := if s.permit.aux.toList.any AuxLine.interlocked then rowHold else rowNone
  supervision := s.permit.sup.stage.row

/-- The table and the outputs agree with the sources. -/
theorem permitsAgree_iff (s : State) :
    s.permitsAgree ↔ s.permit.rows = s.sourceRows ∧ s.permit.outputs = s.permit.rows.combine := by
  unfold State.permitsAgree
  constructor
  · rintro ⟨houtputs, hzone, hoverload, hpose, htable, hmode, hinterlock, hsupervision⟩
    refine ⟨?_, houtputs⟩
    unfold State.sourceRows
    rw [← hzone, ← hoverload, ← hpose, ← htable, ← hmode, ← hinterlock, ← hsupervision]
  · rintro ⟨hrows, houtputs⟩
    exact ⟨houtputs, by rw [hrows]; exact ⟨rfl, rfl, rfl, rfl, rfl, rfl, rfl⟩⟩

/-- Agreement is a matter of the permit unit and of the six conditions outside it. -/
theorem permitsAgree_congr {s t : State} (h : s.permitsAgree) (hpermit : t.permit = s.permit)
    (hzones : t.zones.summary = s.zones.summary) (hoverload : t.weigh.overload = s.weigh.overload)
    (hpose : t.pose.latest = s.pose.latest) (htable : t.table.state = s.table.state) (hmode : t.scanner.mode = s.scanner.mode) :
    t.permitsAgree := by
  simp only [permitsAgree_iff, State.sourceRows, hpermit, hzones, hoverload, hpose, htable, hmode] at h ⊢
  exact h

/-- An evaluation of the rows that the conditions ask for brings agreement. -/
theorem permitsAgree_of_evaluated {t : State} {p : PermitUnit} (hpermit : t.permit = p.evaluate) (hrows : p.rows = t.sourceRows) :
    t.permitsAgree := by
  rw [permitsAgree_iff, hpermit]
  exact ⟨hrows, rfl⟩

/-- The rows before an update are those of the conditions then. -/
theorem State.permitsAgree.rows {s : State} (h : s.permitsAgree) : s.permit.rows = s.sourceRows := ((permitsAgree_iff s).1 h).1

/-! ### One row formed anew, and the evaluation -/

theorem setModeRow_permitsAgree {s : State} {b : Bool} {row : PerFn Level} (h : s.permit.rows = { s.sourceRows with mode := row })
    (hb : s.scanner.mode = .manual ↔ b = true) : (s.setModeRow b).permitsAgree := by
  have hrow : (if b then rowSlowAll else rowNone) = if s.scanner.mode = .manual then rowSlowAll else rowNone := by simp only [hb]
  refine permitsAgree_of_evaluated rfl ?_
  dsimp only
  rw [h, hrow]
  rfl

theorem setTableRow_permitsAgree {s : State} {b : Bool} {row : PerFn Level} (h : s.permit.rows = { s.sourceRows with table := row })
    (hb : s.table.state = .valid ↔ ¬b = true) : (s.setTableRow b).permitsAgree := by
  have hrow : (if b then rowTable else rowNone) = if s.table.state = .valid then rowNone else rowTable := by simp only [hb, ite_not]
  refine permitsAgree_of_evaluated rfl ?_
  dsimp only
  rw [h, hrow]
  rfl

theorem clearOverloadRow_permitsAgree {s : State} {row : PerFn Level} (h : s.permit.rows = { s.sourceRows with overload := row })
    (hw : s.weigh.overload = false) : s.clearOverloadRow.permitsAgree := by
  have hrow : rowNone = if s.weigh.overload then rowOverload else rowNone := by rw [hw]; rfl
  refine permitsAgree_of_evaluated rfl ?_
  dsimp only
  rw [h, hrow]
  rfl

theorem refreshInterlock_permitsAgree {s : State} {row : PerFn Level} (h : s.permit.rows = { s.sourceRows with interlock := row }) :
    s.refreshInterlock.permitsAgree := by
  refine permitsAgree_of_evaluated rfl ?_
  dsimp only [PermitUnit.formInterlock]
  rw [h]
  rfl

theorem State.permitsAgree.setSupervision {s : State} (h : s.permitsAgree) (v : Supervision) : (s.setSupervision v).permitsAgree := by
  refine permitsAgree_of_evaluated rfl ?_
  dsimp only
  rw [h.rows]
  rfl

/-- A change of supervision that keeps its stage changes no row. -/
theorem State.permitsAgree.sameStage {s : State} (h : s.permitsAgree) {v : Supervision} (hv : v.stage = s.permit.sup.stage) :
    { s with permit := { s.permit with sup := v } }.permitsAgree := by
  rw [permitsAgree_iff] at h ⊢
  refine ⟨h.1.trans ?_, h.2⟩
  simp only [State.sourceRows, hv]

/-! ### Answers -/

@[simp] theorem abortState_overload (cause : AbortCause) (s : State) : (abortState cause s).weigh.overload = s.weigh.overload := by
  rw [abortState_weigh]
@[simp] theorem abortState_mode (cause : AbortCause) (s : State) : (abortState cause s).scanner.mode = s.scanner.mode := by
  rw [abortState_scanner]

theorem State.permitsAgree.abortOp {s : State} (h : s.permitsAgree) (cause : AbortCause) : (s.abortOp cause).permitsAgree :=
  permitsAgree_congr h (by simp) (by simp) (by simp) (by simp) (by simp) (by simp)

/-- The MODE row goes with the mode that a SET_SCAN enters (R7). -/
theorem State.permitsAgree.applySetScan {s : State} (h : s.permitsAgree) (mode : ScanMode) (period : Nat) :
    (applySetScan mode period s).permitsAgree := by
  have hperiod : (s.setPeriod period).permitsAgree := permitsAgree_congr h rfl rfl rfl rfl rfl rfl
  unfold Machine.applySetScan
  split
  · exact setModeRow_permitsAgree (row := s.sourceRows.mode) h.rows (by simp)
  · refine setModeRow_permitsAgree (row := s.sourceRows.mode) h.rows ?_
    dsimp only
    split <;> simp [Scanner.startAuto]
  · exact hperiod
  · exact hperiod

/-- The table leaves VALID with its row active, and another state with its row as it was (R36). -/
theorem State.permitsAgree.answerTableBegin {s : State} (h : s.permitsAgree) : (answerTableBegin s).state.permitsAgree := by
  unfold Machine.answerTableBegin
  split
  · exact h
  · dsimp only [Answer.ok_state]
    split
    · exact setTableRow_permitsAgree (row := s.sourceRows.table) h.rows (by simp [Geometry.discard])
    · next hstate =>
      rw [permitsAgree_iff] at h ⊢
      have hrow : (if s.table.state = .valid then rowNone else rowTable) = rowTable := if_neg hstate
      refine ⟨h.1.trans ?_, h.2⟩
      unfold State.sourceRows
      rw [hrow]
      rfl

theorem State.permitsAgree.answerTableEnd {s : State} (h : s.permitsAgree) (check : BitVec 16) :
    (answerTableEnd check s).state.permitsAgree := by
  unfold Machine.answerTableEnd
  split
  · exact h
  · next hstate =>
    rw [not_not] at hstate
    dsimp only
    split
    · exact setTableRow_permitsAgree (row := s.sourceRows.table) h.rows (by simp)
    · rw [permitsAgree_iff] at h ⊢
      have hrow : (if s.table.state = .valid then rowNone else rowTable) = rowTable := by rw [hstate]; rfl
      refine ⟨h.1.trans ?_, h.2⟩
      unfold State.sourceRows
      rw [hrow]
      rfl

/-- The codes of the requests that own the permit unit or a block with a source's condition. -/
def sourceCodes : List Byte :=
  [0x10, 0x11, 0x12, 0x18, 0x20, 0x21, 0x22, 0x28, 0x29, 0x38, 0x3A, 0x3B, 0x51, 0x52, 0x59, 0x5B, 0x5C]

theorem answer_keeps_permitsAgree (i : Instr) {s : State} (h : s.permitsAgree) : (answer i s).state.permitsAgree := by
  by_cases hi : avoids sourceCodes i = true
  · have sub : ∀ {codes : List Byte}, codes ⊆ sourceCodes → avoids codes i = true := avoids_mono hi
    exact permitsAgree_congr h (answer_permit s (sub (by decide))) (by rw [answer_zones s (sub (by decide))])
      (by rw [answer_weigh s (sub (by decide))]) (by rw [answer_pose s (sub (by decide))]) (by rw [answer_table s (sub (by decide))])
      (by rw [answer_scanner s (sub (by decide))])
  have same : ∀ {t : State}, t.permit = s.permit → t.zones.summary = s.zones.summary → t.weigh.overload = s.weigh.overload →
      t.pose.latest = s.pose.latest → t.table.state = s.table.state → t.scanner.mode = s.scanner.mode → t.permitsAgree :=
    permitsAgree_congr h
  cases i
  case unknownRequest => exact h
  case setScan tag mode period =>
    simp only [answer, answerSetScan]
    split
    · exact h.applySetScan _ _
    · exact h
  case tableBegin => exact h.answerTableBegin
  case tableEnd tag check => exact h.answerTableEnd check
  case setLines =>
    simp only [answer, answerSetLines]
    split
    · exact h
    · exact refreshInterlock_permitsAgree (row := s.sourceRows.interlock) h.rows
  case setSupervision =>
    simp only [answer, answerSetSupervision]
    split
    · exact h
    · split
      · exact h
      · exact h.setSupervision _
  case resume =>
    simp only [answer, answerResume]
    split
    · exact h.setSupervision _
    · exact h
  case opAbort =>
    simp only [answer, answerOpAbort]
    split
    · exact h
    · exact h.abortOp _
  case scanOnce =>
    simp only [answer, answerScanOnce]
    split
    · exact h
    · split
      · exact h
      · refine same rfl rfl rfl rfl rfl ?_
        dsimp only [Answer.accepted_state]
        split <;> rfl
  case setChannel =>
    simp only [answer, answerSetChannel]
    split
    · exact h
    · split
      · exact h
      · exact same rfl rfl rfl rfl rfl rfl
  case tableWrite =>
    simp only [answer, answerTableWrite]
    split
    · exact h
    · split
      · exact h
      · split
        · exact h
        · exact same rfl rfl rfl rfl rfl rfl
  case setZone =>
    simp only [answer, answerSetZone]
    split
    · exact h
    · split
      · exact h
      · exact same rfl rfl rfl rfl rfl rfl
  case clearZone =>
    simp only [answer, answerClearZone]
    split
    · exact h
    · exact same rfl rfl rfl rfl rfl rfl
  case span =>
    simp only [answer, answerSpan]
    split
    · exact h
    · split
      · exact h
      · split
        · exact same rfl rfl rfl rfl rfl rfl
        · exact h
  case setCrane | setWeigh =>
    simp only [answer, answerSetCrane, answerSetWeigh]
    split
    · exact h
    · split
      · exact h
      · exact same rfl rfl rfl rfl rfl rfl
  case weighFlush | weighDiscard =>
    simp only [answer, answerWeighFlush, answerWeighDiscard]
    split
    · exact same rfl rfl rfl rfl rfl rfl
    · exact h
  all_goals exact absurd rfl hi

/-! ### Time, the lines, supervision, the scan -/

theorem State.permitsAgree.goodFrame {s : State} (h : s.permitsAgree) : s.goodFrame.permitsAgree := by
  unfold State.goodFrame
  dsimp only
  split
  · exact h.sameStage rfl
  · exact h.sameStage rfl
  · exact h.setSupervision _
  · exact h.sameStage rfl

theorem State.permitsAgree.supervisionLinkReset {s : State} (h : s.permitsAgree) : s.supervisionLinkReset.permitsAgree := by
  unfold State.supervisionLinkReset
  split
  · exact h
  · exact h.sameStage rfl
  · exact h.setSupervision _
  · exact h

/-- A table that is LOADING contributes as an EMPTY one does (R37). -/
theorem Geometry.linkReset_valid_iff (g : Geometry) : g.linkReset.state = .valid ↔ g.state = .valid := by
  unfold Geometry.linkReset
  split
  · next h => simp [h, Geometry.discard]
  · exact Iff.rfl

theorem State.permitsAgree.linkReset {s : State} (h : s.permitsAgree) (cause : StartCause) : (linkReset cause s).permitsAgree := by
  have hsup := h.supervisionLinkReset
  rw [permitsAgree_iff] at hsup ⊢
  simp only [State.sourceRows, supervisionLinkReset_zones, supervisionLinkReset_weigh, supervisionLinkReset_pose,
    supervisionLinkReset_table, supervisionLinkReset_scanner] at hsup
  simpa only [State.sourceRows, linkReset_permit, linkReset_zones, linkReset_weigh, linkReset_pose, linkReset_table, linkReset_scanner,
    abortState_overload, abortState_mode, Geometry.linkReset_valid_iff] using hsup

/-- A line whose edge is no matter of INTERLOCK changes no row (R161). -/
theorem State.permitsAgree.setAux {s : State} (h : s.permitsAgree) {line : Fin 4} {a : AuxLine}
    (ha : a.interlocked = s.permit.aux[line].interlocked) : (s.setAux line a).permitsAgree := by
  have hany : (s.permit.aux.set line a).toList.any AuxLine.interlocked = s.permit.aux.toList.any AuxLine.interlocked := by
    refine any_interlocked_congr fun k => ?_
    by_cases hk : k = line
    · subst hk
      simpa using ha
    · have : (s.permit.aux.set line a)[k] = s.permit.aux[k] := Vector.getElem_set_ne line.isLt k.isLt fun hv => hk (Fin.ext hv.symm)
      rw [this]
  rw [permitsAgree_iff] at h ⊢
  refine ⟨h.1.trans ?_, h.2⟩
  unfold State.sourceRows State.setAux
  dsimp only
  rw [hany]

theorem interlocked_of_mode_ne {a : AuxLine} (h : a.mode ≠ .interlock) : a.interlocked = false := by
  unfold AuxLine.interlocked
  simp [h]

theorem State.permitsAgree.auxDebounceExpiry {s : State} (h : s.permitsAgree) (line : Fin 4) :
    (auxDebounceExpiry line s).permitsAgree := by
  have edge : s.permit.aux[line].mode ≠ .interlock → (s.setAux line (s.permit.aux[line].edge s.time)).permitsAgree := by
    intro hmode
    refine h.setAux ?_
    rw [interlocked_of_mode_ne hmode, interlocked_of_mode_ne (a := s.permit.aux[line].edge s.time) hmode]
  unfold Machine.auxDebounceExpiry edgeEffect
  dsimp only
  split
  · split
    · next hmode => exact edge (fun hi => AuxMode.noConfusion (hmode.symm.trans hi))
    · next hmode => exact edge (fun hi => AuxMode.noConfusion (hmode.symm.trans hi))
    · exact refreshInterlock_permitsAgree (row := s.sourceRows.interlock) h.rows
    · next hmode => exact edge (fun hi => AuxMode.noConfusion (hmode.symm.trans hi))
  · exact h

theorem State.permitsAgree.auxInputChange {s : State} (h : s.permitsAgree) (line : Fin 4) (high : Bool) :
    (auxInputChange line high s).permitsAgree := by
  unfold Machine.auxInputChange
  dsimp only
  split
  · exact h
  · exact h.setAux rfl

theorem State.permitsAgree.supervisionTimerExpiry {s : State} (h : s.permitsAgree) : (supervisionTimerExpiry s).permitsAgree := by
  unfold Machine.supervisionTimerExpiry
  split
  · split
    · exact State.permitsAgree.setSupervision (s := s.raise _) h _
    · exact (State.permitsAgree.abortOp (s := s.raise _) h .supervision).setSupervision _
    · exact h
    · exact h
  · exact h

theorem State.permitsAgree.regripTimerExpiry {s : State} (h : s.permitsAgree) : (regripTimerExpiry s).permitsAgree := by
  unfold Machine.regripTimerExpiry
  split
  · split
    · exact clearOverloadRow_permitsAgree (row := s.sourceRows.overload) h.rows rfl
    · exact h
  all_goals exact h

theorem State.permitsAgree.scanTimerExpiry {s : State} (h : s.permitsAgree) : (scanTimerExpiry s).permitsAgree := by
  unfold Machine.scanTimerExpiry Scanner.expire
  split
  · refine permitsAgree_congr h rfl rfl rfl rfl rfl ?_
    dsimp only
    split <;> rfl
  · exact h

/-- A completion forms the ZONE, POSE and OVERLOAD rows from what it has just found, and leaves the other sources alone. -/
theorem State.permitsAgree.completeScan {s : State} (h : s.permitsAgree) (run : ScanRun) (raw : Vector (BitVec 16) 12) :
    (completeScan run raw s).permitsAgree := by
  refine permitsAgree_of_evaluated (completeScan_permit run raw s) ?_
  simp [scanRows, h.rows, State.sourceRows, completeScan_permit]
  rfl

theorem powerOn_permitsAgree (levels : BitVec 4) (s : State) : (powerOn levels s).permitsAgree := by
  have hnone : (powerOn levels s).permit.aux.toList.any AuxLine.interlocked = false := by
    rw [Bool.eq_false_iff]
    intro hany
    obtain ⟨i, hi⟩ := (any_interlocked_iff _).1 hany
    simp [powerOn, State.reset, PermitUnit.reset, AuxLine.interlocked] at hi
  rw [permitsAgree_iff]
  refine ⟨?_, rfl⟩
  simp only [State.sourceRows, hnone]
  rfl

theorem permitsAgree_kept : Kept State.permitsAgree where
  link _ _ h := h
  raise _ _ h := h
  noticeBegun _ _ h := h
  noticeSent _ h := h
  free _ _ h := h
  answer i _ h := answer_keeps_permitsAgree i h
  goodFrame _ h := h.goodFrame
  powerOn levels s _ := powerOn_permitsAgree levels s
  linkReset cause _ h := h.linkReset cause
  mark _ _ h := h
  remove _ _ h := h
  scanTimer _ h := h.scanTimerExpiry
  scan run raw _ _ h := h.completeScan run raw
  regrip _ h := h.regripTimerExpiry
  auxInput line high _ h := h.auxInputChange line high
  auxDebounce line _ h := h.auxDebounceExpiry line
  supervision _ h := h.supervisionTimerExpiry

/-- Settles O56. -/
theorem stepKeepsPermitsInAgreement : Obligations.StepKeepsPermitsInAgreement :=
  fun s t h hstep => permitsAgree_kept.step (fun _ _ h => h) (fun _ _ h => h) s t h hstep

end Sys2Proof.Machine
end

section
/-! The invariants of the record queue, the event unit, supervision, the geometry table and the reply slot (chapters 2, 7, 9, 10, 11). -/
namespace Sys2Proof.Machine

/-! ### Record queue (R125, R132): counts and marks -/

namespace RecordQueue

/-- Marked records come first: a record behind an unmarked one is not marked. -/
theorem marksAtHead_iff (l : List HeldRecord) : marksAtHead l = true ↔ l.Pairwise fun a b => b.marked = true → a.marked = true := by
  induction l with
  | nil => simp [marksAtHead]
  | cons h t ih =>
    rw [marksAtHead, List.pairwise_cons]
    cases hm : h.marked with
    | true => simpa using ih
    | false =>
      simp only [Bool.false_eq_true, if_false, List.all_eq_true, Bool.not_eq_true', imp_false, Bool.not_eq_true]
      refine ⟨fun hall => ⟨hall, ?_⟩, And.left⟩
      exact List.pairwise_of_forall_mem_list fun a _ b hb hbm => absurd (hall b hb) (by simp [hbm])

theorem marksAtHead_of_unmarked {l : List HeldRecord} (h : ∀ x ∈ l, x.marked = false) : marksAtHead l = true :=
  (marksAtHead_iff l).2 (List.pairwise_of_forall_mem_list fun a _ b hb hm => absurd (h b hb) (by simp [hm]))

/-- A record joins the tail without its mark (R128). -/
theorem marksAtHead_append {l : List HeldRecord} (h : marksAtHead l = true) (r : Record) : marksAtHead (l ++ [⟨r, false⟩]) = true := by
  rw [marksAtHead_iff] at h ⊢
  rw [List.pairwise_append]
  refine ⟨h, List.pairwise_singleton .., fun a _ b hb hm => ?_⟩
  rw [List.mem_singleton.1 hb] at hm
  cases hm

theorem marksAtHead_drop {l : List HeldRecord} (h : marksAtHead l = true) (n : Nat) : marksAtHead (l.drop n) = true := by
  rw [marksAtHead_iff] at h ⊢
  exact h.drop

/-- Marking goes on where the marks end (R133, R135). -/
theorem marksAtHead_markFirst {l : List HeldRecord} (h : marksAtHead l = true) (n : Nat) : marksAtHead (markFirst n l) = true := by
  induction l generalizing n with
  | nil => cases n <;> rfl
  | cons x t ih =>
    cases n with
    | zero => exact h
    | succ n =>
      cases hm : x.marked with
      | true =>
        have ht : marksAtHead t = true := by simpa [marksAtHead, hm] using h
        simpa [markFirst, marksAtHead, hm] using ih ht (n + 1)
      | false =>
        have ht : ∀ y ∈ t, y.marked = false := by simpa [marksAtHead, hm] using h
        simpa [markFirst, marksAtHead, hm] using ih (marksAtHead_of_unmarked ht) n

/-- Marking changes no record. -/
theorem markFirst_records (n : Nat) (l : List HeldRecord) : (markFirst n l).map HeldRecord.record = l.map HeldRecord.record := by
  induction l generalizing n with
  | nil => cases n <;> rfl
  | cons x t ih =>
    cases n with
    | zero => rfl
    | succ n =>
      rw [markFirst]
      split <;> simp [ih]

/-- The numbers of lift and load records go by the records alone, not by their marks. -/
theorem lifts_eq (q : RecordQueue) : q.lifts = (q.records.map HeldRecord.record).countP Record.isLift := by
  rw [List.countP_map, List.countP_eq_length_filter]
  rfl
theorem loads_eq (q : RecordQueue) : q.loads = (q.records.map HeldRecord.record).countP fun r => !r.isLift := by
  rw [List.countP_map, List.countP_eq_length_filter]
  rfl

/-- The same records with the marks at the head. -/
theorem inBounds.of_same_records {q q' : RecordQueue} (h : q.inBounds)
    (hrecords : q'.records.map HeldRecord.record = q.records.map HeldRecord.record) (hmarks : marksAtHead q'.records = true) :
    q'.inBounds := by
  obtain ⟨hlifts, hloads, _⟩ := h
  refine ⟨?_, ?_, hmarks⟩
  · rw [lifts_eq, hrecords, ← lifts_eq]
    exact hlifts
  · rw [loads_eq, hrecords, ← loads_eq]
    exact hloads

theorem inBounds.mark {q : RecordQueue} (h : q.inBounds) (n : Nat) : { q with records := markFirst n q.records }.inBounds :=
  h.of_same_records (markFirst_records n q.records) (marksAtHead_markFirst h.2.2 n)

theorem inBounds.remove {q : RecordQueue} (h : q.inBounds) (n : Nat) : (q.remove n).inBounds := by
  obtain ⟨hlifts, hloads, hmarks⟩ := h
  exact ⟨(List.Sublist.length_le ((List.drop_sublist n q.records).filter _)).trans hlifts,
    (List.Sublist.length_le ((List.drop_sublist n q.records).filter _)).trans hloads, marksAtHead_drop hmarks n⟩

/-- A lift record is admitted below 30 and folded at 30 (R128, R129). -/
theorem inBounds.takeLift {q : RecordQueue} (h : q.inBounds) (r : LiftRecord) (now : Time) : (q.takeLift r now).1.inBounds := by
  obtain ⟨hlifts, hloads, hmarks⟩ := h
  unfold RecordQueue.takeLift
  split
  · next hroom =>
    refine ⟨?_, ?_, marksAtHead_append hmarks _⟩
    · simpa [RecordQueue.lifts, Record.isLift] using hroom
    · simpa [RecordQueue.loads, Record.isLift] using hloads
  · exact ⟨hlifts, hloads, hmarks⟩

/-- A load record is admitted below 2 (R118, R131). -/
theorem inBounds.takeLoad {q : RecordQueue} (h : q.inBounds) (hroom : ¬2 ≤ q.loads) (r : LoadRecord) (now : Time) :
    (q.takeLoad r now).1.inBounds := by
  obtain ⟨hlifts, _, hmarks⟩ := h
  refine ⟨?_, ?_, marksAtHead_append hmarks _⟩
  · simpa [RecordQueue.takeLoad, RecordQueue.lifts, Record.isLift] using hlifts
  · simpa [RecordQueue.takeLoad, RecordQueue.loads, Record.isLift] using Nat.lt_of_not_le hroom

theorem inBounds.linkReset {q : RecordQueue} (h : q.inBounds) (keep : Bool) : (q.linkReset keep).inBounds := by
  refine h.of_same_records ?_ (marksAtHead_of_unmarked fun x hx => ?_)
  · simp [RecordQueue.linkReset]
  · obtain ⟨_, _, rfl⟩ := List.mem_map.1 hx
    rfl

end RecordQueue

/-- The tracker leaves the queue as it is, or gives it the record of the lift it finalizes (R63). -/
theorem track_records (v : ScanView) (s : State) :
    (track v s).1.records = s.records ∨ ∃ r now, (track v s).1.records = (s.records.takeLift r now).1 := by
  unfold track trackGripping trackReleasing
  split
  · split <;> exact .inl rfl
  · split
    · split
      · split
        · exact .inr ⟨_, _, rfl⟩
        · exact .inl rfl
      all_goals exact .inl rfl
    · exact .inl rfl

theorem answer_keeps_records_inBounds (i : Instr) {s : State} (h : s.records.inBounds) : (answer i s).state.records.inBounds := by
  by_cases hi : avoids [0x41, 0x43, 0x48, 0x49] i = true
  · exact (answer_records s hi).symm ▸ h
  cases i
  case unknownRequest => exact h
  case tallyAdjust =>
    simp only [answer, answerTallyAdjust]
    split
    · exact h
    · split
      · exact h
      · exact h.takeLift _ _
  case loadClose =>
    simp only [answer, answerLoadClose]
    split
    · exact h
    · split
      · exact h
      · next hroom => exact h.takeLoad hroom _ s.time
  case fetchRecords =>
    simp only [answer, answerFetchRecords]
    split
    · exact h
    · split
      · exact h
      · exact h.mark _
  case setStream =>
    simp only [answer, answerSetStream]
    split
    · exact h
    · split <;> exact h
  all_goals exact absurd rfl hi

theorem records_inBounds_kept : Kept fun s => s.records.inBounds where
  link _ _ h := h
  raise _ _ h := h
  noticeBegun _ _ h := h
  noticeSent _ h := h
  free _ _ h := h
  answer i _ h := answer_keeps_records_inBounds i h
  goodFrame s h := (goodFrame_records s).symm ▸ h
  powerOn _ _ _ := ⟨Nat.zero_le _, Nat.zero_le _, rfl⟩
  linkReset cause s h := (linkReset_records cause s).symm ▸ h.linkReset s.link.keep
  mark _ n h := h.mark n
  remove _ n h := h.remove n
  scanTimer s h := by
    have := congrArg State.records (scanTimerExpiry_frame s)
    exact this.symm ▸ h
  scan run raw s _ h := by
    show (completeScan run raw s).records.inBounds
    rw [completeScan_records]
    obtain heq | ⟨r, now, heq⟩ := track_records (scanView raw s) (beforeTrack run raw s)
    · exact heq.symm ▸ h
    · exact heq.symm ▸ RecordQueue.inBounds.takeLift (q := s.records) h r now
  regrip s h := by
    show (regripTimerExpiry s).records.inBounds
    unfold regripTimerExpiry
    split
    · split
      · exact h.takeLift _ _
      · exact h
    all_goals exact h
  auxInput line high s h := by
    have := congrArg State.records (auxInputChange_frame line high s)
    exact this.symm ▸ h
  auxDebounce line s h := by
    have := congrArg State.records (auxDebounceExpiry_frame line s)
    exact this.symm ▸ h
  supervision s h := by
    have := congrArg State.records (supervisionTimerExpiry_frame s)
    exact this.symm ▸ h

/-! ### Event unit (R172, R173, R175) -/

namespace EventUnit

/-- The three bounds of the notice queue, one by one. -/
theorem wf_iff (e : EventUnit) : e.wf = true ↔ e.queue.length ≤ 8 ∧ (∀ k : Kind, e.queue.count (.event k) ≤ 1)
    ∧ (e.mode = .itemized ∨ e.queue.count .attention ≤ 1 ∧ (e.queue.filter isEvent).length ≤ 1) := by
  have hall : Kind.all.all (fun k => decide (e.queue.count (.event k) ≤ 1)) = true ↔ ∀ k : Kind, e.queue.count (.event k) ≤ 1 := by
    rw [List.all_eq_true]
    exact ⟨fun h k => of_decide_eq_true (h k (mem_all k)), fun h k _ => decide_eq_true (h k)⟩
  unfold wf
  rw [Bool.and_eq_true, Bool.and_eq_true, hall, and_assoc]
  simp

/-- A part of the queue in the same mode keeps the bounds. -/
theorem wf_of_sublist {e e' : EventUnit} (h : e.wf = true) (hqueue : e'.queue.Sublist e.queue) (hmode : e'.mode = e.mode) :
    e'.wf = true := by
  rw [wf_iff] at h ⊢
  obtain ⟨hlength, hkinds, hsummary⟩ := h
  refine ⟨hqueue.length_le.trans hlength, fun k => (hqueue.count_le _).trans (hkinds k), ?_⟩
  rw [hmode]
  exact hsummary.imp_right fun ⟨hattention, hevents⟩ =>
    ⟨(hqueue.count_le _).trans hattention, (hqueue.filter _).length_le.trans hevents⟩

/-- Queue and mode are all that the bounds look at. -/
theorem wf_of_eq {e e' : EventUnit} (h : e.wf = true) (hqueue : e'.queue = e.queue) (hmode : e'.mode = e.mode) : e'.wf = true :=
  wf_of_sublist h (hqueue ▸ List.Sublist.refl _) hmode

/-- A queue of one notice or none is within the bounds in every mode. -/
theorem wf_of_length_le_one {e : EventUnit} (h : e.queue.length ≤ 1) : e.wf = true := by
  rw [wf_iff]
  exact ⟨h.trans (by decide), fun k => List.count_le_length.trans h,
    .inr ⟨List.count_le_length.trans h, (List.length_filter_le _ _).trans h⟩⟩

theorem waits_of_nextToQueue {e : EventUnit} {k : Kind} (h : e.nextToQueue = some k) : e.waits k :=
  (waits_iff e k).2 (List.find?_some h :)

/-- A kind without a notice takes a free place (R173). -/
theorem wf_fill {e : EventUnit} (h : e.wf = true) (hmode : e.mode = .itemized) (n : Nat) : (e.fill n).wf = true := by
  induction n generalizing e with
  | zero => exact h
  | succ n ih =>
    by_cases hfull : 8 ≤ e.queue.length
    · exact (fill_stops (.inl hfull) (n + 1)).symm ▸ h
    · cases hnext : e.nextToQueue with
      | none => exact (fill_stops (.inr ((nextToQueue_eq_none e).1 hnext)) (n + 1)).symm ▸ h
      | some k =>
        rw [fill_next (Nat.lt_of_not_le hfull) hnext]
        refine ih ?_ hmode
        rw [wf_iff] at h ⊢
        obtain ⟨_, hkinds, _⟩ := h
        have hnew : e.queue.count (.event k) = 0 := by
          have hnotice := (waits_of_nextToQueue hnext).2.2
          exact List.count_eq_zero.2 (by simpa [hasNotice] using hnotice)
        refine ⟨?_, fun j => ?_, .inl hmode⟩
        · simpa using Nat.lt_of_not_le hfull
        · by_cases hj : j = k
          · subst hj
            simp [hnew]
          · simpa [List.count_append, List.count_singleton, Ne.symm hj] using hkinds j

/-- The unsent ATTENTION leaves the queue, and no notice joins it (R175). -/
theorem withdrawAttention_sublist (b : Bool) (q : List Notice) : (withdrawAttention b q).Sublist q := by
  unfold withdrawAttention
  split
  · exact List.filter_sublist.cons_cons _
  · exact List.filter_sublist

/-- Settling keeps the bounds (R173, R175). -/
theorem wf_settle {e : EventUnit} (h : e.wf = true) (b : Bool) : (e.settle b).wf = true := by
  cases hmode : e.mode with
  | itemized =>
    rw [settle_itemized hmode]
    exact wf_of_eq (wf_fill h hmode 8) rfl rfl
  | summary =>
    rw [settle_summary hmode]
    split
    · exact wf_of_sublist h (withdrawAttention_sublist b e.queue) rfl
    · split
      · next hnew =>
        rw [wf_iff] at h ⊢
        obtain ⟨hlength, hkinds, hsummary⟩ := h
        obtain ⟨hattention, hevents⟩ := hsummary.resolve_left (by rw [hmode]; decide)
        have hnone : e.queue.count .attention = 0 := List.count_eq_zero.2 hnew.2
        have hsplit : e.queue.length = (e.queue.filter isEvent).length + e.queue.count .attention := by
          rw [List.count_eq_countP, ← List.countP_eq_length_filter, List.length_eq_countP_add_countP isEvent]
          congr 1
          refine List.countP_congr fun n _ => ?_
          cases n <;> simp [isEvent]
        refine ⟨?_, fun k => ?_, .inr ⟨?_, ?_⟩⟩
        · simp only [List.length_append, List.length_singleton]
          omega
        · simpa [List.count_append, List.count_singleton] using hkinds k
        · simp [List.count_append, hnone]
        · simpa [isEvent] using hevents
      · exact h

theorem wf_raise {e : EventUnit} (h : e.wf = true) (b : Bool) (d : Detail) : (e.raise b d).wf = true :=
  wf_settle (wf_of_eq (e' := e.occur d) h rfl rfl) b

/-- A SET_EVENTS keeps the queue in its mode, and at most the notice in transmission in another (R176). -/
theorem wf_setModeMask {e : EventUnit} (h : e.wf = true) (sending : Bool) (mode : EventMode) (mask : BitVec 16) :
    (e.setModeMask sending mode mask).wf = true := by
  unfold setModeMask
  dsimp only
  refine wf_settle ?_ sending
  split
  · next hmode => exact wf_of_eq h rfl hmode
  · refine wf_of_length_le_one ?_
    cases sending <;> simp

theorem wf_linkReset (cause : StartCause) (keep : Bool) (now : Time) (e : EventUnit) : (e.linkReset cause keep now).wf = true := by
  obtain ⟨e', heq, hqueue, _⟩ := linkReset_eq cause keep now e
  rw [heq]
  exact wf_settle (wf_of_length_le_one (by simp [hqueue])) false

end EventUnit

/-- An invariant of the event unit that settling brings about or keeps. -/
structure EventInvariant (P : EventUnit → Prop) : Prop where
  raise : ∀ e b d, P e → P (e.raise b d)
  report : ∀ e k, P e → P ((e.report k).settle true)
  noticeSent : ∀ e, P e → P ({ e with queue := e.queue.drop 1 }.settle false)
  reportRaised : ∀ e b, P e → P (e.reportRaised.settle b)
  setModeMask : ∀ e b mode mask, P e → P (e.setModeMask b mode mask)
  linkReset : ∀ cause keep now e, P e → P (e.linkReset cause keep now)
  reset : P EventUnit.reset

namespace EventInvariant
variable {P : EventUnit → Prop} (hP : EventInvariant P)
include hP

theorem raiseAll (s : State) (ds : List Detail) (h : P s.events) : P (s.raiseAll ds).events :=
  raiseAll_induction (fun e d b => hP.raise e b d) s ds h

theorem evaluate (cause : HoldCause) (s : State) (h : P s.events) : P (s.evaluate cause).events :=
  hP.raiseAll { s with permit := s.permit.evaluate } _ h

theorem setSupervision (v : Supervision) (s : State) (h : P s.events) : P (s.setSupervision v).events :=
  hP.evaluate .supervision { s with permit := _ } h

theorem refreshInterlock (s : State) (h : P s.events) : P s.refreshInterlock.events :=
  hP.evaluate .lines { s with permit := _ } h

theorem abortOp (cause : AbortCause) (s : State) (h : P s.events) : P (s.abortOp cause).events :=
  hP.raiseAll (abortState cause s) _ (by rwa [abortState_events])

theorem answer (i : Instr) (s : State) (h : P s.events) : P (answer i s).state.events := by
  cases i
  case setEvents =>
    simp only [Machine.answer, answerSetEvents]
    split
    · exact h
    · exact hP.setModeMask _ _ _ _ h
  case getEvents => exact hP.reportRaised _ _ h
  case tableEnd =>
    simp only [Machine.answer, answerTableEnd]
    split
    · exact h
    · split
      · exact h
      · exact hP.raise _ _ _ h
  case tallyAdjust =>
    simp only [Machine.answer, answerTallyAdjust]
    split
    · exact h
    · split
      · exact h
      · exact hP.raiseAll { s with tally := _, records := _ } _ h
  case loadClose =>
    simp only [Machine.answer, answerLoadClose]
    split
    · exact h
    · split
      · exact h
      · exact hP.raiseAll { s with tally := _, records := _ } _ h
  case setStream =>
    simp only [Machine.answer, answerSetStream]
    split
    · exact h
    · split
      · exact h
      · exact hP.raiseAll { s with records := _ } _ h
  case opAbort =>
    simp only [Machine.answer, answerOpAbort]
    split
    · exact h
    · exact hP.abortOp _ _ h
  case setLines =>
    simp only [Machine.answer, answerSetLines]
    split
    · exact h
    · exact hP.refreshInterlock { s with permit := _ } h
  case setSupervision =>
    simp only [Machine.answer, answerSetSupervision]
    split
    · exact h
    · split
      · exact h
      · exact hP.setSupervision _ _ h
  case resume =>
    simp only [Machine.answer, answerResume]
    split
    · exact hP.setSupervision _ _ h
    · exact h
  case setScan =>
    simp only [Machine.answer, answerSetScan, applySetScan]
    split
    · split <;> exact h
    · exact h
  all_goals
    simp only [Machine.answer, answerSetChannel, answerScanOnce, answerGetSample, answerSetCrane, answerGetPose, answerTableBegin,
      answerTableWrite, answerTableRead, answerSetZone, answerClearZone, answerGetZone, answerSetSort, answerMark, answerSetWeigh,
      answerGetWeigh, answerWeighFlush, answerWeighDiscard, answerSetPayload, answerTallySet, answerGetTally, answerFetchRecords,
      answerZero, answerSpan, answerGetPermits, answerGetLines, answerGetDetail, answerSetLink, answerReset, answerPing, answerGetStatus]
    repeat' split
    all_goals exact h

theorem supervisionLinkReset (s : State) (h : P s.events) : P s.supervisionLinkReset.events := by
  unfold State.supervisionLinkReset
  split
  · exact h
  · exact h
  · exact hP.setSupervision _ _ h
  · exact h

theorem kept : Kept fun s => P s.events where
  link _ _ h := h
  raise s d h := hP.raise _ _ _ h
  noticeBegun s k h := hP.report _ _ h
  noticeSent s h := hP.noticeSent _ h
  free _ _ h := h
  answer i s h := hP.answer i s h
  goodFrame s h := by
    show P s.goodFrame.events
    unfold State.goodFrame
    dsimp only
    split
    · exact h
    · exact h
    · exact hP.setSupervision _ _ h
    · exact h
  powerOn _ _ _ := hP.reset
  linkReset cause s h := by
    refine hP.raiseAll { (linkResetBlocks cause s).supervisionLinkReset with free := s.free + 1 } _ ?_
    exact hP.supervisionLinkReset (linkResetBlocks cause s) (hP.linkReset cause s.link.keep s.time s.events h)
  mark _ _ h := h
  remove _ _ h := h
  scanTimer s h := by
    have := congrArg State.events (scanTimerExpiry_frame s)
    exact this.symm ▸ h
  scan run raw s _ h := by
    unfold completeScan
    refine hP.raiseAll _ _ ?_
    simpa only [afterScan, track_events, takeWeight_events, takeGeometry_events] using h
  regrip s h := by
    show P (regripTimerExpiry s).events
    unfold regripTimerExpiry
    split
    · split
      · exact hP.raiseAll _ _ h
      · exact h
    all_goals exact h
  auxInput line high s h := by
    have := congrArg State.events (auxInputChange_frame line high s)
    exact this.symm ▸ h
  auxDebounce line s h := by
    show P (auxDebounceExpiry line s).events
    unfold auxDebounceExpiry edgeEffect
    dsimp only
    split
    · split
      · exact h
      · exact hP.raise _ _ _ h
      · exact hP.refreshInterlock { s with permit := _ } h
      · exact h
    · exact h
  supervision s h := by
    show P (supervisionTimerExpiry s).events
    unfold supervisionTimerExpiry
    split
    · split
      · exact hP.setSupervision _ (s.raise _) (hP.raise _ _ _ h)
      · exact hP.setSupervision _ _ (hP.abortOp .supervision (s.raise _) (hP.raise _ _ _ h))
      · exact h
      · exact h
    · exact h

end EventInvariant

theorem events_wf_invariant : EventInvariant fun e => e.wf = true where
  raise _ b d h := EventUnit.wf_raise h b d
  report e k h := EventUnit.wf_settle (EventUnit.wf_of_eq (e' := e.report k) h rfl rfl) true
  noticeSent e h := EventUnit.wf_settle (EventUnit.wf_of_sublist (e' := { e with queue := e.queue.drop 1 }) h (List.drop_sublist 1 _) rfl)
    false
  reportRaised e b h := EventUnit.wf_settle (EventUnit.wf_of_eq (e' := e.reportRaised) h rfl rfl) b
  setModeMask _ b mode mask h := EventUnit.wf_setModeMask h b mode mask
  linkReset cause keep now e _ := EventUnit.wf_linkReset cause keep now e
  reset := by decide

/-- In the unit after power-on no kind is pending, so that nothing waits. -/
theorem EventUnit.reset_settled : EventUnit.reset.settled :=
  ⟨fun _ => .inr fun k hw => absurd hw.1 (by simp [EventUnit.isPending, EventUnit.reset]), fun h => EventMode.noConfusion h,
    fun h => EventMode.noConfusion h, fun _ => rfl⟩

/-- Whatever the event unit does ends in settling. -/
theorem events_settled_invariant : EventInvariant EventUnit.settled where
  raise _ b _ _ := EventUnit.settle_settled b _
  report _ _ _ := EventUnit.settle_settled true _
  noticeSent _ _ := EventUnit.settle_settled false _
  reportRaised _ b _ := EventUnit.settle_settled b _
  setModeMask _ b _ _ _ := EventUnit.settle_settled b _
  linkReset _ _ _ _ _ := EventUnit.settle_settled false _
  reset := EventUnit.reset_settled

end Sys2Proof.Machine
end

section
/-! The invariants of link supervision, the geometry table and the reply slot (chapters 2, 9, 11), and the queues' obligation. -/
namespace Sys2Proof.Machine

/-! ### Link supervision (R164) -/

namespace Supervision

/-- A timed stage runs the timer on an interval that is not 0. -/
theorem consistent_restart {v : Supervision} (hok : intervalOk v.interval = true) (hinterval : v.interval ≠ 0)
    (hstage : v.stage = .normal ∨ v.stage = .warned) (now : Time) : (v.restart now).consistent := by
  refine ⟨hok, ?_, ?_⟩
  · show v.stage = .off ↔ v.interval = 0
    rcases hstage with h | h <;> simp [h, hinterval]
  · show (some _ = none) ↔ v.stage = .off ∨ v.stage = .stopped
    rcases hstage with h | h <;> simp [h]

/-- Outside OFF there is an interval. -/
theorem consistent.interval_ne {v : Supervision} (h : v.consistent) (hstage : v.stage ≠ .off) : v.interval ≠ 0 :=
  fun h0 => hstage (h.2.1.2 h0)

/-- Outside OFF the timer may restart in NORMAL or WARNED (R164, R165, R167, R168). -/
theorem consistent.restartIn {v : Supervision} (h : v.consistent) (hstage : v.stage ≠ .off) {stage : Stage}
    (htimed : stage = .normal ∨ stage = .warned) {good : Option Time} (now : Time) :
    ({ v with stage := stage, lastGood := good }.restart now).consistent :=
  consistent_restart (v := { v with stage := stage, lastGood := good }) h.1 (h.interval_ne hstage) htimed now

/-- STOPPED has no timer (R165). -/
theorem consistent.stop {v : Supervision} (h : v.consistent) (hstage : v.stage ≠ .off) :
    { v with stage := .stopped, timer := none }.consistent :=
  ⟨h.1, by simpa using h.interval_ne hstage, by simp⟩

theorem consistent_set {interval : Nat} (hok : intervalOk interval = true) (now : Time) (v : Supervision) :
    (v.set interval now).consistent := by
  unfold set
  split
  · exact ⟨rfl, by simp, by simp⟩
  · next h => exact consistent_restart (v := { v with interval := interval, stage := .normal }) hok h (.inl rfl) now

end Supervision

theorem consistent_goodFrame {s : State} (h : s.permit.sup.consistent) : s.goodFrame.permit.sup.consistent := by
  unfold State.goodFrame
  dsimp only
  split
  · exact h
  · next hstage =>
    exact Supervision.consistent_restart (v := { s.permit.sup with lastGood := some s.time }) h.1
      (h.interval_ne (by rw [hstage]; decide)) (.inl hstage) s.time
  · next hstage => exact h.restartIn (by rw [hstage]; decide) (.inl rfl) s.time
  · exact h

theorem consistent_supervisionLinkReset {s : State} (h : s.permit.sup.consistent) : s.supervisionLinkReset.permit.sup.consistent := by
  unfold State.supervisionLinkReset
  split
  · exact h
  · next hstage =>
    exact Supervision.consistent_restart (v := s.permit.sup) h.1 (h.interval_ne (by rw [hstage]; decide)) (.inl hstage) s.time
  · next hstage => exact h.restartIn (by rw [hstage]; decide) (.inl rfl) (good := s.permit.sup.lastGood) s.time
  · exact h

theorem consistent_supervisionTimerExpiry {s : State} (h : s.permit.sup.consistent) :
    (supervisionTimerExpiry s).permit.sup.consistent := by
  unfold supervisionTimerExpiry
  split
  · split
    · next hstage => exact h.restartIn (by rw [hstage]; decide) (.inr rfl) (good := s.permit.sup.lastGood) s.time
    · next hstage => exact h.stop (by rw [hstage]; decide)
    · exact h
    · exact h
  · exact h

theorem answer_keeps_supervision_consistent (i : Instr) {s : State} (h : s.permit.sup.consistent) :
    (answer i s).state.permit.sup.consistent := by
  by_cases hi : avoids [0x10, 0x20, 0x22, 0x59, 0x5B, 0x5C] i = true
  · exact (answer_permit s hi).symm ▸ h
  cases i
  case unknownRequest => exact h
  case setScan =>
    simp only [answer, answerSetScan, applySetScan]
    split
    · split <;> exact h
    · exact h
  case tableBegin =>
    simp only [answer, answerTableBegin, Answer.ok]
    split
    · exact h
    · dsimp only
      split <;> exact h
  case tableEnd =>
    simp only [answer, answerTableEnd]
    split
    · exact h
    · split <;> exact h
  case setLines =>
    simp only [answer, answerSetLines]
    split <;> exact h
  case setSupervision =>
    simp only [answer, answerSetSupervision]
    split
    · exact h
    · split
      · exact h
      · next hok => exact Supervision.consistent_set (by simpa using hok) _ _
  case resume =>
    simp only [answer, answerResume]
    split
    · next hstage => exact h.restartIn (by rw [hstage]; decide) (.inl rfl) (good := s.permit.sup.lastGood) s.time
    · exact h
  all_goals exact absurd rfl hi

@[simp] theorem completeScan_sup (run : ScanRun) (raw : Vector (BitVec 16) 12) (s : State) :
    (completeScan run raw s).permit.sup = s.permit.sup := by
  rw [completeScan_permit, PermitUnit.evaluate_sup]
@[simp] theorem completeScan_aux (run : ScanRun) (raw : Vector (BitVec 16) 12) (s : State) :
    (completeScan run raw s).permit.aux = s.permit.aux := by
  rw [completeScan_permit, PermitUnit.evaluate_aux]

/-- Supervision is OFF at power-on (R164). -/
theorem reset_sup_consistent : State.reset.permit.sup.consistent := ⟨rfl, by decide, by decide⟩

theorem supervision_consistent_kept : Kept fun s => s.permit.sup.consistent where
  link _ _ h := h
  raise _ _ h := h
  noticeBegun _ _ h := h
  noticeSent _ h := h
  free _ _ h := h
  answer i _ h := answer_keeps_supervision_consistent i h
  goodFrame _ h := consistent_goodFrame h
  powerOn _ _ _ := reset_sup_consistent
  linkReset cause s h := by
    show (linkReset cause s).permit.sup.consistent
    rw [linkReset_permit]
    exact consistent_supervisionLinkReset h
  mark _ _ h := h
  remove _ _ h := h
  scanTimer s h := by
    have := congrArg State.permit (scanTimerExpiry_frame s)
    exact this.symm ▸ h
  scan run raw s _ h := by
    show (completeScan run raw s).permit.sup.consistent
    rwa [completeScan_sup]
  regrip s h := by
    show (regripTimerExpiry s).permit.sup.consistent
    unfold regripTimerExpiry
    split
    · split <;> exact h
    all_goals exact h
  auxInput line high s h := by
    show (auxInputChange line high s).permit.sup.consistent
    unfold auxInputChange
    dsimp only
    split <;> exact h
  auxDebounce line s h := by
    show (auxDebounceExpiry line s).permit.sup.consistent
    unfold auxDebounceExpiry edgeEffect
    dsimp only
    split
    · split <;> exact h
    · exact h
  supervision _ h := consistent_supervisionTimerExpiry h

/-! ### Geometry table (R30) -/

namespace Geometry

theorem consistent_discard {state : TableState} (h : state ≠ .valid) : (Geometry.discard state).consistent :=
  ⟨fun _ r => by simp [discard], fun hv => absurd hv h⟩

/-- LOADING asks nothing of the rows. -/
theorem consistent_of_loading {g : Geometry} (h : g.state = .loading) : g.consistent :=
  ⟨fun he => TableState.noConfusion (h.symm.trans he), fun hv => TableState.noConfusion (h.symm.trans hv)⟩

theorem mem_rowList (r : Fin 16) : r ∈ rowList := by revert r; decide

/-- Sixteen rows written are all the rows. -/
theorem isSome_of_rowCount {g : Geometry} (h : ¬g.rowCount < 16) (r : Fin 16) : g.rows[r].isSome = true := by
  have hall : (rowList.filter fun r => g.rows[r].isSome).length = rowList.length :=
    Nat.le_antisymm (List.length_filter_le _ _) (Nat.le_of_not_lt h)
  exact List.length_filter_eq_length_iff.1 hall r (mem_rowList r)

theorem rowCount_of_valid {check : BitVec 16} {g : Geometry} (h : tableOutcome check g = .valid) : ¬g.rowCount < 16 := by
  intro hlt
  rw [tableOutcome, if_pos hlt] at h
  cases h

theorem consistent.linkReset {g : Geometry} (h : g.consistent) : g.linkReset.consistent := by
  unfold Geometry.linkReset
  split
  · exact consistent_discard (by decide)
  · exact h

end Geometry

theorem answer_keeps_table_consistent (i : Instr) {s : State} (h : s.table.consistent) : (answer i s).state.table.consistent := by
  by_cases hi : avoids [0x20, 0x21, 0x22] i = true
  · exact (answer_table s hi).symm ▸ h
  cases i
  case unknownRequest => exact h
  case tableBegin =>
    simp only [answer, answerTableBegin, Answer.ok]
    split
    · exact h
    · dsimp only
      split <;> exact Geometry.consistent_discard (by decide)
  case tableWrite =>
    simp only [answer, answerTableWrite]
    split
    · exact h
    · next hstate =>
      split
      · exact h
      · split
        · exact h
        · exact Geometry.consistent_of_loading (not_not.1 hstate)
  case tableEnd =>
    simp only [answer, answerTableEnd]
    split
    · exact h
    · split
      · next hvalid => exact ⟨fun he => TableState.noConfusion he, fun _ => Geometry.isSome_of_rowCount (Geometry.rowCount_of_valid hvalid)⟩
      · exact Geometry.consistent_discard (by decide)
  all_goals exact absurd rfl hi

theorem table_consistent_kept : Kept fun s => s.table.consistent where
  link _ _ h := h
  raise _ _ h := h
  noticeBegun _ _ h := h
  noticeSent _ h := h
  free _ _ h := h
  answer i _ h := answer_keeps_table_consistent i h
  goodFrame s h := (goodFrame_table s).symm ▸ h
  powerOn _ _ _ := Geometry.consistent_discard (state := .empty) (by decide)
  linkReset cause s h := (linkReset_table cause s).symm ▸ h.linkReset
  mark _ _ h := h
  remove _ _ h := h
  scanTimer s h := by
    have := congrArg State.table (scanTimerExpiry_frame s)
    exact this.symm ▸ h
  scan run raw s _ h := (completeScan_table run raw s).symm ▸ h
  regrip s h := by
    have := congrArg State.table (regripTimerExpiry_frame s)
    exact this.symm ▸ h
  auxInput line high s h := by
    have := congrArg State.table (auxInputChange_frame line high s)
    exact this.symm ▸ h
  auxDebounce line s h := by
    have := congrArg State.table (auxDebounceExpiry_frame line s)
    exact this.symm ▸ h
  supervision s h := by
    have := congrArg State.table (supervisionTimerExpiry_frame s)
    exact this.symm ▸ h

/-! ### The reply slot (R186) -/

/-- After the taking no request waits on an empty slot, whatever was before it. -/
theorem takeNext_settled (s : State) : (takeNext s).link.settled := by
  cases hslot : s.link.slot with
  | some r =>
    rw [takeNext_of_slot hslot]
    exact fun h => by rw [hslot] at h; cases h
  | none =>
    cases hbuffer : s.link.buffer with
    | nil =>
      rw [takeNext_of_empty hbuffer]
      exact fun _ => hbuffer
    | cons f rest =>
      rw [takeNext_of_buffer hslot hbuffer]
      exact fun h => by rw [takeRequest_slot] at h; cases h

theorem offer_settled (f : RequestFrame) (s : State) : (offer f s).link.settled := takeNext_settled _

theorem acceptFrame_settled {s : State} (h : s.link.settled) (len : Nat) (bytes : List Byte) : (acceptFrame len bytes s).link.settled := by
  unfold acceptFrame
  dsimp only
  split
  · exact offer_settled _ _
  · simpa using h

theorem hunt_settled (fuel : Nat) (bytes : List Byte) {s : State} (h : s.link.settled) : (hunt fuel bytes s).1.link.settled := by
  induction fuel generalizing bytes s with
  | zero => exact h
  | succ fuel ih =>
    cases bytes with
    | nil => exact h
    | cons b rest =>
      unfold hunt
      split
      · exact ih _ h
      · cases rest with
        | nil => exact h
        | cons lenByte tail =>
          dsimp only
          split
          · exact ih _ h
          · split
            · exact h
            · split
              · exact ih _ (acceptFrame_settled h _ _)
              · exact ih _ h

theorem receive_settled (bytes : List Byte) {s : State} (h : s.link.settled) : (receive bytes s).link.settled := by
  unfold receive
  split
  · exact h
  · exact hunt_settled _ _ (s := s.hunting) h

theorem frameTimeout_settled (bytes : List Byte) {s : State} (h : s.link.settled) : (frameTimeout bytes s).link.settled := by
  unfold frameTimeout abandon
  split
  · split
    · split <;> exact h
    · exact h
  · exact receive_settled bytes h

theorem lenOutOfRange_settled (len : Byte) {s : State} (h : s.link.settled) : (lenOutOfRange len s).link.settled := by
  unfold lenOutOfRange
  split
  · exact receive_settled _ h
  · split
    · exact receive_settled _ h
    · exact h

/-- The arbiter touches the transmit line alone, of the link port (R188). -/
theorem arbitrate_link (s : State) : { (arbitrate s).link with tx := s.link.tx } = s.link := by
  unfold arbitrate
  split
  · rfl
  · split
    · unfold beginNotice
      dsimp only
      split <;> rfl
    · rfl
    · rfl

theorem arbitrate_settled {s : State} (h : s.link.settled) : (arbitrate s).link.settled := by
  have hslot := congrArg LinkPort.slot (arbitrate_link s)
  have hbuffer := congrArg LinkPort.buffer (arbitrate_link s)
  intro hn
  exact hbuffer.trans (h (hslot.symm.trans hn))

theorem transmitStart_settled {s : State} (h : s.link.settled) : (transmitStart s).link.settled := by
  unfold transmitStart
  split
  · exact h
  · exact arbitrate_settled (takeNext_settled s)

theorem takeAtFrameEnd_settled (s : State) : (takeAtFrameEnd s).link.settled := by
  unfold takeAtFrameEnd
  split <;> exact takeNext_settled _

theorem frameTransmitted_settled {s : State} (h : s.link.settled) : (frameTransmitted s).link.settled := by
  unfold frameTransmitted
  split
  · exact h
  · exact takeAtFrameEnd_settled _

theorem linkReset_settled (cause : StartCause) (s : State) : (linkReset cause s).link.settled := by
  rw [linkReset_link]
  exact fun _ => rfl

/-- No command leaves a request waiting on an empty slot. -/
theorem exec_keeps_link_settled {c : Instr} {s t : State} (h : s.link.settled) (e : exec c s = .next t) : t.link.settled := by
  cases hf : requestOf c with
  | some f =>
    rw [exec_of_requestOf hf] at e
    exact Host.Outcome.next.inj e ▸ offer_settled f s
  | none =>
    cases c
    case powerOn => exact Host.Outcome.next.inj e ▸ fun _ => rfl
    case scanTimerExpiry =>
      have hlink := congrArg State.link (scanTimerExpiry_frame s)
      exact Host.Outcome.next.inj e ▸ hlink.symm ▸ h
    case scanCompletion raw =>
      refine Host.Outcome.next.inj e ▸ ?_
      unfold scanCompletion
      split
      · exact h
      · split
        · simpa using h
        · exact h
    case regripTimerExpiry =>
      have hlink := congrArg State.link (regripTimerExpiry_frame s)
      exact Host.Outcome.next.inj e ▸ hlink.symm ▸ h
    case auxInputChange line high =>
      have hlink := congrArg State.link (auxInputChange_frame line high s)
      exact Host.Outcome.next.inj e ▸ hlink.symm ▸ h
    case auxDebounceExpiry line =>
      have hlink := congrArg State.link (auxDebounceExpiry_frame line s)
      exact Host.Outcome.next.inj e ▸ hlink.symm ▸ h
    case supervisionTimerExpiry =>
      have hlink := congrArg State.link (supervisionTimerExpiry_frame s)
      exact Host.Outcome.next.inj e ▸ hlink.symm ▸ h
    case frameReceived bytes => exact Host.Outcome.next.inj e ▸ receive_settled bytes h
    case frameTimeout bytes => exact Host.Outcome.next.inj e ▸ frameTimeout_settled bytes h
    case lineBreakEnd held =>
      refine Host.Outcome.next.inj e ▸ ?_
      unfold lineBreakEnd
      split
      · exact linkReset_settled _ s
      · exact h
    case transmitStart => exact Host.Outcome.next.inj e ▸ transmitStart_settled h
    case frameTransmitted => exact Host.Outcome.next.inj e ▸ frameTransmitted_settled h
    case lenOutOfRange len => exact Host.Outcome.next.inj e ▸ lenOutOfRange_settled len h
    all_goals cases hf

theorem idle_link (s : State) : (idle s).link = s.link := by
  unfold idle
  split <;> rfl

theorem step_keeps_link_settled {s t : State} (h : s.link.settled) (e : step s = .next t) : t.link.settled := by
  unfold step at e
  split at e
  · next c rest _ => exact exec_keeps_link_settled (s := { s with pending := rest }) h e
  · exact Host.Outcome.next.inj e ▸ (idle_link s).symm ▸ h

/-- Settles O58: six invariants, each kept by itself. -/
theorem stepKeepsTheQueuesInBounds : Obligations.StepKeepsTheQueuesInBounds := by
  intro s t hstep
  have kept : ∀ {P : State → Prop}, Kept P → (∀ s q, P s → P { s with pending := q }) → (∀ s n, P s → P { s with time := n }) →
      P s → P t := fun hP pending time h => hP.step pending time s t h hstep
  exact ⟨kept records_inBounds_kept (fun _ _ h => h) fun _ _ h => h, kept events_wf_invariant.kept (fun _ _ h => h) fun _ _ h => h,
    kept events_settled_invariant.kept (fun _ _ h => h) fun _ _ h => h, fun h => step_keeps_link_settled h hstep,
    kept supervision_consistent_kept (fun _ _ h => h) fun _ _ h => h, kept table_consistent_kept (fun _ _ h => h) fun _ _ h => h⟩

end Sys2Proof.Machine
end

section
/-! What a scan completion does to tracker, window and parameters (chapters 4, 5, 8): the transitions of the tracker with what each does
to the weigh unit, and the steps of a judged scan. -/
namespace Sys2Proof.Machine

/-! ### The tracker's transitions (R57 to R60, R68) -/

/-- What the tracker does with a scan: nothing, or one of its five transitions, each with its own change of the weigh unit. -/
inductive Transition (v : ScanView) (s : State) : TrackerState → Weigh → Prop
  | stays (h : (v.scan.gripping s.weigh.params = false ∧ v.scan.releasing s.weigh.params = false)
      ∨ (v.scan.gripping s.weigh.params = true ∧ s.tracker.state ≠ .empty ∧ ∀ l rel e, s.tracker.state ≠ .releaseHold l rel e)
      ∨ (v.scan.gripping s.weigh.params = false ∧ v.scan.releasing s.weigh.params = true ∧ s.tracker.state ≠ .calibration
          ∧ ∀ l, s.tracker.state ≠ .gripped l)) : Transition v s s.tracker.state s.weigh
  | grips (hg : v.scan.gripping s.weigh.params = true) (hs : s.tracker.state = .empty) :
      Transition v s (.gripped (newLift s.tracker v)) (s.weigh.latch v.tableValid v.scan.time)
  | regrips (l : Lift) (rel : Release) (e : Time) (hg : v.scan.gripping s.weigh.params = true)
      (hs : s.tracker.state = .releaseHold l rel e) : Transition v s (.gripped (regripped l)) (s.weigh.thaw v.scan.time)
  | finalizes (l : Lift) (hg : v.scan.gripping s.weigh.params = false) (hr : v.scan.releasing s.weigh.params = true)
      (hs : s.tracker.state = .gripped l) (h0 : s.weigh.params.regrip = 0) : Transition v s .empty s.weigh.release
  | releases (l : Lift) (hg : v.scan.gripping s.weigh.params = false) (hr : v.scan.releasing s.weigh.params = true)
      (hs : s.tracker.state = .gripped l) (h0 : s.weigh.params.regrip ≠ 0) :
      Transition v s (.releaseHold l (releaseOf v) (addMs v.scan.time s.weigh.params.regrip)) s.weigh.freeze
  | leavesCalibration (hg : v.scan.gripping s.weigh.params = false) (hr : v.scan.releasing s.weigh.params = true)
      (hs : s.tracker.state = .calibration) : Transition v s .empty s.weigh.leaveCalibration

/-- The tracker's step is one of the transitions. -/
theorem track_transition (v : ScanView) (s : State) : Transition v s (track v s).1.tracker.state (track v s).1.weigh := by
  cases hg : v.scan.gripping s.weigh.params with
  | true =>
    rw [track_of_gripping v s hg]
    unfold trackGripping
    split
    · next hs => exact .grips hg hs
    · next l rel e hs => exact .regrips l rel e hg hs
    all_goals
      next hs => exact .stays (.inr (.inl ⟨hg, by rw [hs]; exact nofun, fun _ _ _ => by rw [hs]; exact nofun⟩))
  | false =>
    cases hr : v.scan.releasing s.weigh.params with
    | false =>
      rw [track_neither v s hg hr]
      exact .stays (.inl ⟨hg, hr⟩)
    | true =>
      rw [track_of_releasing v s hg hr]
      unfold trackReleasing
      split
      · next l hs =>
        split
        · next h0 => exact .finalizes l hg hr hs h0
        · next h0 => exact .releases l hg hr hs h0
      · next hs => exact .leavesCalibration hg hr hs
      all_goals
        next hs => exact .stays (.inr (.inr ⟨hg, hr, by rw [hs]; exact nofun, fun _ => by rw [hs]; exact nofun⟩))

/-! ### The weigh unit after a completion, field by field -/

section
variable (run : ScanRun) (raw : Vector (BitVec 16) 12) (s : State)

@[simp] theorem settleLatest_context (w : Weigh) : (settleLatest s w).context = w.context := by
  unfold settleLatest; split <;> rfl
@[simp] theorem settleLatest_window (w : Weigh) : (settleLatest s w).window = w.window := by
  unfold settleLatest; split <;> rfl
@[simp] theorem settleLatest_overload (w : Weigh) : (settleLatest s w).overload = w.overload := by
  unfold settleLatest; split <;> rfl
@[simp] theorem settleLatest_params (w : Weigh) : (settleLatest s w).params = w.params := by
  unfold settleLatest; split <;> rfl
@[simp] theorem settleLatest_newer (w : Weigh) : (settleLatest s w).newer = w.newer := by
  unfold settleLatest; split <;> rfl
@[simp] theorem settleLatest_older (w : Weigh) : (settleLatest s w).older = w.older := by
  unfold settleLatest; split <;> rfl

/-- The operation's step at a completion, in terms of the state before it. -/
def operationStep : OpStep :=
  opAtScan s.op.slot run.isOnce s.weigh.params (completedScan raw s) (scanWeight (scanView raw s) s)
    (windowAfter s.weigh (scanView raw s) (scanWeight (scanView raw s) s))

theorem completeScan_context :
    (completeScan run raw s).weigh.context = (track (scanView raw s) (beforeTrack run raw s)).1.weigh.context := by
  rw [completeScan_weigh]
  exact settleLatest_context s _
theorem completeScan_window :
    (completeScan run raw s).weigh.window = (track (scanView raw s) (beforeTrack run raw s)).1.weigh.window := by
  rw [completeScan_weigh]
  exact settleLatest_window s _
theorem completeScan_overload :
    (completeScan run raw s).weigh.overload = (track (scanView raw s) (beforeTrack run raw s)).1.weigh.overload := by
  rw [completeScan_weigh]
  exact settleLatest_overload s _
theorem completeScan_params : (completeScan run raw s).weigh.params = (operationStep run raw s).write s.weigh.params := by
  rw [completeScan_weigh]
  show OpStep.write _ (settleLatest s _).params = _
  rw [settleLatest_params, track_params]
  rfl

@[simp] theorem beforeTrack_params : (beforeTrack run raw s).weigh.params = s.weigh.params := rfl
@[simp] theorem beforeTrack_context : (beforeTrack run raw s).weigh.context = s.weigh.context := rfl
@[simp] theorem beforeTrack_window : (beforeTrack run raw s).weigh.window =
    windowAfter s.weigh (scanView raw s) (scanWeight (scanView raw s) s) := rfl
/-- Before the tracker's step only the OVERLOAD_SEEN flag of the lift in progress can have changed. -/
theorem beforeTrack_tracker_state : (beforeTrack run raw s).tracker.state = s.tracker.state
    ∨ ∃ f, (beforeTrack run raw s).tracker.state = s.tracker.state.mapLift f := by
  have h : (beforeTrack run raw s).tracker = _ := takeWeight_tracker _ _ (takeGeometry run raw (scanView raw s) s)
  rw [h]
  split
  · exact .inr ⟨_, rfl⟩
  · exact .inl rfl

end

/-! ### The window's steps: how many samples, and which state (R87, R90 to R93) -/

namespace Window

theorem zoneStep_samples (v : ScanView) (w : Window) : (w.zoneStep v).samples = w.samples := by
  unfold zoneStep openStep
  split
  · split
    · split <;> rfl
    · rfl
  · split <;> rfl
  · split <;> rfl
  · rfl
  · rfl

/-- A window that samples can join is so before and after the zone step, but for a NONE window that opens (R90). -/
theorem zoneStep_unfinished {v : ScanView} {w : Window} (h : (w.zoneStep v).state.unfinished = true) :
    w.state.unfinished = true ∨ w.state = .unopened := by
  unfold zoneStep at h
  split at h
  · next hs => exact .inr hs
  · next hs => exact .inl (by rw [hs]; rfl)
  · next hs => exact .inl (by rw [hs]; rfl)
  · exact .inl h
  · exact .inl h

/-- The zone step leaves a window NONE only where it was (R90). -/
theorem zoneStep_unopened {v : ScanView} {w : Window} (h : (w.zoneStep v).state = .unopened) : w.state = .unopened := by
  unfold zoneStep at h
  split at h
  · next hs => exact hs
  · next hs =>
    split at h
    · rw [hs] at h; cases h
    · cases h
  · next hs =>
    split at h
    · cases h
    · rw [hs] at h; cases h
  · exact h
  · exact h

/-- What the fault, sample, stillness and budget steps can do: leave the window, close it with FAULT, or add a sample and close it or
leave it open (R91 to R93). -/
theorem laterSteps_cases (v : ScanView) (budget : Nat) (still : Option (Nat × Nat)) (sample : Option Int) (w : Window) :
    w.laterSteps v budget still sample = w
    ∨ (w.state = .opened ∧ w.laterSteps v budget still sample = { w with state := .closed .fault })
    ∨ ∃ x, w.state = .opened ∧ (w.laterSteps v budget still sample = { w with samples := w.samples ++ [x], state := .closed .full }
      ∨ (w.laterSteps v budget still sample = { w with samples := w.samples ++ [x] } ∧ w.samples.length + 1 < budget)
      ∨ (still ≠ none ∧ w.laterSteps v budget still sample = { w with samples := w.samples ++ [x], state := .closed .still })) := by
  unfold laterSteps
  split
  · next hopen =>
    split
    · exact .inr (.inl ⟨hopen, rfl⟩)
    · split
      · exact .inl rfl
      · next x =>
        refine .inr (.inr ⟨x, hopen, ?_⟩)
        unfold closeSteps
        split
        · next hstill => exact .inr (.inr ⟨fun hnone => by simp [hnone] at hstill, rfl⟩)
        · split
          · exact .inl rfl
          · next hroom =>
            have : w.samples.length + 1 < budget := by simpa using hroom
            exact .inr (.inl ⟨rfl, this⟩)
  · exact .inl rfl

end Window

end Sys2Proof.Machine
end

section
/-! The crane side's invariant (chapters 1, 4, 5, 8): what it looks at, and that the tracker's transitions, the window's steps and the
operation's step keep its parts. -/
namespace Sys2Proof.Machine

/-! ### Tracker, context and window (R52, R80, R87) -/

/-- The context and the window state that go with a tracker state (R52, R80, R100). -/
def contextMatches : TrackerState → Context → WindowState → Prop
  | .empty, .absent, w => w = .unopened
  | .held, .absent, w => w = .unopened
  | .gripped _, .lift _, _ => True
  | .releaseHold _ _ _, .lift _, _ => True
  | .calibration, .calibration _, _ => True
  | _, _, _ => False

theorem contextFits_iff (s : State) :
    s.contextFits ↔ contextMatches s.tracker.state s.weigh.context s.weigh.window.state := by
  unfold State.contextFits contextMatches
  cases s.tracker.state <;> cases s.weigh.context <;> rfl

/-- The flags and the sort of a lift are no matter of the state it stands in. -/
@[simp] theorem mapLift_eq_empty (f : Lift → Lift) (k : TrackerState) : k.mapLift f = .empty ↔ k = .empty := by
  cases k <;> simp [TrackerState.mapLift]
@[simp] theorem mapLift_eq_held (f : Lift → Lift) (k : TrackerState) : k.mapLift f = .held ↔ k = .held := by
  cases k <;> simp [TrackerState.mapLift]
@[simp] theorem mapLift_eq_calibration (f : Lift → Lift) (k : TrackerState) : k.mapLift f = .calibration ↔ k = .calibration := by
  cases k <;> simp [TrackerState.mapLift]
@[simp] theorem contextMatches_mapLift (f : Lift → Lift) (k : TrackerState) (c : Context) (w : WindowState) :
    contextMatches (k.mapLift f) c w ↔ contextMatches k c w := by
  cases k <;> cases c <;> exact Iff.rfl

namespace Weigh

/-- The bounds look at context and window alone. -/
theorem windowFits_congr {w w' : Weigh} (h : w.windowFits) (hcontext : w'.context = w.context) (hwindow : w'.window = w.window) :
    w'.windowFits := by
  unfold windowFits at h ⊢
  rw [hcontext, hwindow]
  exact h

/-- A window without samples is within the bounds of any context that SET_WEIGH allows. -/
theorem windowFits_of_nil {w : Weigh} (hbudget : w.context.held = true → 8 ≤ w.context.budget ∧ w.context.budget ≤ 64)
    (hsamples : w.window.samples = []) (hheld : w.context.held = true ∨ w.window.state.unfinished = false) : w.windowFits := by
  refine ⟨hbudget, by simp [hsamples], fun hu => ?_, fun _ => hsamples⟩
  have hb := hbudget (hheld.resolve_right (by simp [hu]))
  simp only [hsamples, List.length_nil]
  omega

/-- A change of the state alone, to one that samples can join only where they could before. -/
theorem windowFits.setState {w : Weigh} (h : w.windowFits) {c : Context} {state : WindowState} (hc : c.held = w.context.held)
    (hb : c.budget = w.context.budget) (hu : state.unfinished = true → w.window.state.unfinished = true)
    (hn : state = .unopened → w.window.state = .unopened) :
    ({ w with context := c, window := { w.window with state := state } } : Weigh).windowFits := by
  obtain ⟨hbudget, hlength, hroom, hnone⟩ := h
  refine ⟨fun hh => ?_, ?_, fun hs => ?_, fun hs => hnone (hn hs)⟩
  · simp only [hb]
    exact hbudget (hc ▸ hh)
  · simpa only [hb] using hlength
  · simpa only [hb] using hroom (hu hs)

end Weigh

@[simp] theorem setPhase_held (phase : Phase) (thaw : Option Time) (c : Context) : (c.setPhase phase thaw).held = c.held := by
  cases c <;> rfl
@[simp] theorem setPhase_budget (phase : Phase) (thaw : Option Time) (c : Context) : (c.setPhase phase thaw).budget = c.budget := by
  cases c <;> rfl

/-- The thaw suspends a FROZEN window and leaves any other (R94). -/
theorem Weigh.thaw_eq (now : Time) (w : Weigh) : w.thaw now = { w with
    context := w.context.setPhase .gripped (some now)
    window := { w.window with state := if w.window.state = .frozen then .suspended else w.window.state } } := by
  obtain ⟨_, _, _, _, ⟨state, _, _⟩, _, _⟩ := w
  cases state <;> rfl

/-- The freeze stops an OPEN or SUSPENDED window and leaves any other (R94). -/
theorem Weigh.freeze_eq (w : Weigh) : w.freeze = { w with
    context := w.context.setPhase .released none
    window := { w.window with
      state := if w.window.state = .opened ∨ w.window.state = .suspended then .frozen else w.window.state } } := by
  obtain ⟨_, _, _, _, ⟨state, _, _⟩, _, _⟩ := w
  cases state <;> rfl

/-- The parameters in force give a budget of 8 to 64 (R77). -/
theorem budget_of_weighParamsOk {p : WeighParams} (h : weighParamsOk p = true) : 8 ≤ p.budget ∧ p.budget ≤ 64 := by
  simp only [weighParamsOk, Bool.and_eq_true, decide_eq_true_eq] at h
  omega

/-- A weight parameter set keeps the release threshold below the grip threshold (R77). -/
theorem release_lt_grip_of_weighParamsOk {p : WeighParams} (h : weighParamsOk p = true) : p.release < p.grip := by
  simp only [weighParamsOk, Bool.and_eq_true, decide_eq_true_eq] at h
  omega

/-- Every transition of the tracker leaves a context that goes with the state entered, and a window within its bounds. -/
theorem Transition.fits {v : ScanView} {s : State} {k : TrackerState} {w : Weigh} (h : Transition v s k w)
    (hparams : weighParamsOk s.weigh.params = true)
    (hmatch : contextMatches s.tracker.state s.weigh.context s.weigh.window.state) (hfits : s.weigh.windowFits) :
    contextMatches k w.context w.window.state ∧ w.windowFits := by
  cases h with
  | stays => exact ⟨hmatch, hfits⟩
  | grips => exact ⟨trivial, Weigh.windowFits_of_nil (fun _ => budget_of_weighParamsOk hparams) rfl (.inl rfl)⟩
  | regrips l rel e hg hs =>
    rw [hs] at hmatch
    cases hc : s.weigh.context with
    | lift c =>
      rw [Weigh.thaw_eq, hc]
      refine ⟨trivial, hfits.setState (by rw [hc]; rfl) (by rw [hc]; rfl) (fun hu => ?_) fun hn => ?_⟩
      · split at hu
        · next hfrozen => rw [hfrozen]; rfl
        · exact hu
      · split at hn
        · cases hn
        · exact hn
    | absent => rw [hc] at hmatch; exact hmatch.elim
    | calibration c => rw [hc] at hmatch; exact hmatch.elim
  | finalizes => exact ⟨rfl, Weigh.windowFits_of_nil (fun h => nomatch h) rfl (.inr rfl)⟩
  | releases l hg hr hs =>
    rw [hs] at hmatch
    cases hc : s.weigh.context with
    | lift c =>
      rw [Weigh.freeze_eq, hc]
      refine ⟨trivial, hfits.setState (by rw [hc]; rfl) (by rw [hc]; rfl) (fun hu => ?_) fun hn => ?_⟩
      · split at hu
        · next hjoins => rcases hjoins with hs' | hs' <;> rw [hs'] <;> rfl
        · exact hu
      · split at hn
        · cases hn
        · exact hn
    | absent => rw [hc] at hmatch; exact hmatch.elim
    | calibration c => rw [hc] at hmatch; exact hmatch.elim
  | leavesCalibration => exact ⟨rfl, Weigh.windowFits_of_nil (fun h => nomatch h) rfl (.inr rfl)⟩

/-- HELD is entered and left by SET_SCAN alone (R69). -/
theorem Transition.held_iff {v : ScanView} {s : State} {k : TrackerState} {w : Weigh} (h : Transition v s k w) :
    k = .held ↔ s.tracker.state = .held := by
  cases h with
  | stays => exact Iff.rfl
  | grips hg hs => simp [hs]
  | regrips _ _ _ hg hs => simp [hs]
  | finalizes _ hg hr hs => simp [hs]
  | releases _ hg hr hs => simp [hs]
  | leavesCalibration hg hr hs => simp [hs]

/-! ### The window judges a scan (R87, R89 to R93) -/

/-- The fault, sample, stillness and budget steps keep the number of samples within the budget. -/
theorem laterSteps_fits {budget : Nat} {w : Window} (v : ScanView) (still : Option (Nat × Nat)) (sample : Option Int)
    (hlength : w.samples.length ≤ budget) (hroom : w.state.unfinished = true → w.samples.length < budget)
    (hnone : w.state = .unopened → w.samples = []) :
    let u := w.laterSteps v budget still sample
    u.samples.length ≤ budget ∧ (u.state.unfinished = true → u.samples.length < budget) ∧ (u.state = .unopened → u.samples = []) := by
  intro u
  have hjoin : w.state = .opened → w.samples.length + 1 ≤ budget := fun hopen => hroom (by rw [hopen]; rfl)
  obtain h | ⟨hopen, h⟩ | ⟨x, hopen, h | ⟨h, hlt⟩ | ⟨_, h⟩⟩ := Window.laterSteps_cases v budget still sample w
  · rw [show u = w from h]
    exact ⟨hlength, hroom, hnone⟩
  · rw [show u = _ from h]
    exact ⟨hlength, fun hu => (nomatch hu), fun hu => (nomatch hu)⟩
  · rw [show u = _ from h]
    exact ⟨by simpa using hjoin hopen, fun hu => (nomatch hu), fun hu => (nomatch hu)⟩
  · rw [show u = _ from h]
    exact ⟨by simpa using hjoin hopen, fun _ => by simpa using hlt, fun hu => WindowState.noConfusion (hopen.symm.trans hu)⟩
  · rw [show u = _ from h]
    exact ⟨by simpa using hjoin hopen, fun hu => (nomatch hu), fun hu => (nomatch hu)⟩

/-- The window after a scan has been judged is within its bounds (R87, R93). -/
theorem windowAfter_fits {w : Weigh} (h : w.windowFits) (v : ScanView) (weight : Option Int) :
    ({ w with window := windowAfter w v weight } : Weigh).windowFits := by
  obtain ⟨hbudget, hlength, hroom, hnone⟩ := h
  refine ⟨hbudget, ?_⟩
  show (windowAfter w v weight).samples.length ≤ w.context.budget ∧ _
  unfold windowAfter
  cases hc : w.context with
  | absent =>
    rw [hc] at hlength hroom
    exact ⟨hlength, hroom, hnone⟩
  | lift c =>
    rw [hc] at hbudget hlength hroom
    dsimp only
    split
    · refine laterSteps_fits v _ _ ?_ (fun hu => ?_) fun hu => ?_
      · rw [Window.zoneStep_samples]
        exact hlength
      · rw [Window.zoneStep_samples]
        rcases Window.zoneStep_unfinished hu with hu | hu
        · exact hroom hu
        · rw [hnone hu]
          exact Nat.lt_of_lt_of_le (by decide) (hbudget rfl).1
      · rw [Window.zoneStep_samples]
        exact hnone (Window.zoneStep_unopened hu)
    · exact ⟨hlength, hroom, hnone⟩
  | calibration c =>
    rw [hc] at hlength hroom
    dsimp only
    split
    · exact ⟨hlength, hroom, hnone⟩
    · exact laterSteps_fits v _ _ hlength hroom hnone

/-- A window that no context keeps is left alone; so the context goes with the tracker state after the judging as before it. -/
theorem contextMatches_windowAfter {k : TrackerState} {w : Weigh} (h : contextMatches k w.context w.window.state) (v : ScanView)
    (weight : Option Int) : contextMatches k w.context (windowAfter w v weight).state := by
  unfold windowAfter
  cases hc : w.context with
  | absent => rw [hc] at h; exact h
  | lift c => rw [hc] at h; cases k <;> exact h
  | calibration c => rw [hc] at h; cases k <;> exact h

section
variable (run : ScanRun) (raw : Vector (BitVec 16) 12) (s : State)

/-- Before the tracker's step the context goes with its state, and the window is within its bounds. -/
theorem beforeTrack_fits (hmatch : s.contextFits) (hfits : s.weigh.windowFits) :
    contextMatches (beforeTrack run raw s).tracker.state (beforeTrack run raw s).weigh.context (beforeTrack run raw s).weigh.window.state
      ∧ (beforeTrack run raw s).weigh.windowFits := by
  rw [contextFits_iff] at hmatch
  refine ⟨?_, Weigh.windowFits_congr (windowAfter_fits hfits (scanView raw s) (scanWeight (scanView raw s) s)) rfl rfl⟩
  have hafter := contextMatches_windowAfter hmatch (scanView raw s) (scanWeight (scanView raw s) s)
  rw [beforeTrack_context, beforeTrack_window]
  obtain heq | ⟨f, heq⟩ := beforeTrack_tracker_state run raw s
  · rw [heq]
    exact hafter
  · rw [heq, contextMatches_mapLift]
    exact hafter

/-- The transition of a completion, from the state before the tracker's step. -/
theorem completeScan_transition : Transition (scanView raw s) (beforeTrack run raw s)
    (completeScan run raw s).tracker.state (track (scanView raw s) (beforeTrack run raw s)).1.weigh := by
  rw [completeScan_tracker]
  exact track_transition _ _

theorem completeScan_fits (hparams : weighParamsOk s.weigh.params = true) (hmatch : s.contextFits) (hfits : s.weigh.windowFits) :
    (completeScan run raw s).contextFits ∧ (completeScan run raw s).weigh.windowFits := by
  obtain ⟨hmatch', hfits'⟩ := beforeTrack_fits run raw s hmatch hfits
  obtain ⟨hm, hf⟩ := (completeScan_transition run raw s).fits hparams hmatch' hfits'
  rw [contextFits_iff, completeScan_context, completeScan_window]
  exact ⟨hm, Weigh.windowFits_congr hf (completeScan_context run raw s) (completeScan_window run raw s)⟩

theorem completeScan_held_iff : (completeScan run raw s).tracker.state = .held ↔ s.tracker.state = .held := by
  rw [(completeScan_transition run raw s).held_iff]
  obtain heq | ⟨f, heq⟩ := beforeTrack_tracker_state run raw s
  · rw [heq]
  · rw [heq, mapLift_eq_held]

end

end Sys2Proof.Machine
end

section
/-! The crane side's invariant, command by command (chapters 1, 4, 5, 8), and the scanner's time (R2, R4, R5). -/
namespace Sys2Proof.Machine

/-! ### A running operation at a scan (R145 to R151, R17) -/

/-- An operation that a scan does not end is of the kind it was, within its counts, and no scan that ends it has come (R145, R149). -/
inductive RunsOn (own : Bool) (p : WeighParams) (scan : Scan) (window : Window) : Op → Op → Prop
  | zero {count count' skipped skipped' : Nat} {sum sum' : Int} (hg : scan.gripping p = false) (hc : count' < 32) (hs : skipped' < 8) :
      RunsOn own p scan window (.zero count sum skipped) (.zero count' sum' skipped')
  | span {mass : Nat} (hr : scan.releasing p = false) (hfull : window.state ≠ .closed .full) (hfault : window.state ≠ .closed .fault) :
      RunsOn own p scan window (.span mass) (.span mass)
  | scanOnce (ho : own = false) : RunsOn own p scan window .scanOnce .scanOnce

/-- After a completion the slot is IDLE, or the operation runs on. -/
theorem opAtScan_cases {slot : Option Op} (hfits : ∀ count sum skipped, slot = some (.zero count sum skipped) → count < 32 ∧ skipped < 8)
    (own : Bool) (p : WeighParams) (scan : Scan) (weight : Option Int) (window : Window) :
    (opAtScan slot own p scan weight window).slot = none
    ∨ ((opAtScan slot own p scan weight window).done = none
      ∧ ∃ o o', slot = some o ∧ (opAtScan slot own p scan weight window).slot = some o' ∧ RunsOn own p scan window o o') := by
  cases slot with
  | none => exact .inl rfl
  | some o =>
    cases o with
    | zero count sum skipped =>
      obtain ⟨hcount, hskipped⟩ := hfits count sum skipped rfl
      simp only [opAtScan, zeroAtScan]
      split
      · exact .inl rfl
      · next hg =>
        rw [Bool.not_eq_true] at hg
        split
        · split
          · refine .inl ?_
            unfold zeroComplete
            dsimp only
            split <;> rfl
          · next hc => exact .inr ⟨rfl, _, _, rfl, rfl, .zero hg (by omega) hskipped⟩
        · split
          · exact .inl rfl
          · next hs => exact .inr ⟨rfl, _, _, rfl, rfl, .zero hg hcount (by omega)⟩
    | span mass =>
      simp only [opAtScan, spanAtScan]
      split
      · exact .inl rfl
      · next hr =>
        rw [Bool.not_eq_true] at hr
        split
        · refine .inl ?_
          unfold spanComplete
          dsimp only
          split
          · rfl
          · split <;> rfl
        · exact .inl rfl
        · next hfull hfault => exact .inr ⟨rfl, _, _, rfl, rfl, .span hr hfull hfault⟩
    | scanOnce =>
      simp only [opAtScan, onceAtScan]
      split
      · exact .inl rfl
      · next ho => exact .inr ⟨rfl, _, _, rfl, rfl, .scanOnce (by simpa using ho)⟩

theorem weighParamsOk_setTare {p : WeighParams} (h : weighParamsOk p = true) {tare : Nat} (ht : tare ≤ 2000) :
    weighParamsOk { p with tare := tare } = true := by
  simp only [weighParamsOk, Bool.and_eq_true, decide_eq_true_eq] at h ⊢
  exact ⟨h.1, ht⟩

theorem weighParamsOk_setTrim {p : WeighParams} (h : weighParamsOk p = true) {trim : Nat} (ht : 800 ≤ trim ∧ trim ≤ 1250) :
    weighParamsOk { p with trim := trim } = true := by
  simp only [weighParamsOk, Bool.and_eq_true, decide_eq_true_eq] at h ⊢
  exact ⟨⟨⟨h.1.1.1, ht.1⟩, ht.2⟩, h.2⟩

/-- What ZERO or SPAN writes at DONE lies in the ranges of R77 (R147, R150). -/
theorem weighParamsOk_write {p : WeighParams} (h : weighParamsOk p = true) (slot : Option Op) (own : Bool) (q : WeighParams)
    (scan : Scan) (weight : Option Int) (window : Window) :
    weighParamsOk ((opAtScan slot own q scan weight window).write p) = true := by
  have hnone : ∀ o : OpStep, o.tare = none → o.trim = none → weighParamsOk (o.write p) = true := by
    intro o ht hr
    simp only [OpStep.write, ht, hr, Option.getD_none]
    exact h
  cases slot with
  | none => exact hnone _ rfl rfl
  | some o =>
    cases o with
    | zero count sum skipped =>
      simp only [opAtScan, zeroAtScan]
      split
      · exact hnone _ rfl rfl
      · split
        · split
          · unfold zeroComplete
            dsimp only
            split
            · next hmean =>
              have : (roundHalfUp (sum + _) 32).toNat ≤ 2000 := Int.toNat_le.2 hmean.2
              exact weighParamsOk_setTare h this
            · exact hnone _ rfl rfl
          · exact hnone _ rfl rfl
        · split <;> exact hnone _ rfl rfl
    | span mass =>
      simp only [opAtScan, spanAtScan]
      split
      · exact hnone _ rfl rfl
      · split
        · unfold spanComplete
          dsimp only
          split
          · exact hnone _ rfl rfl
          · split
            · next htrim =>
              have : 800 ≤ (roundHalfUp (1000 * (mass : Int) * 64) (sumInt window.samples)).toNat
                  ∧ (roundHalfUp (1000 * (mass : Int) * 64) (sumInt window.samples)).toNat ≤ 1250 := by omega
              exact weighParamsOk_setTrim h this
            · exact hnone _ rfl rfl
        · exact hnone _ rfl rfl
        · exact hnone _ rfl rfl
    | scanOnce =>
      simp only [opAtScan, onceAtScan]
      split <;> exact hnone _ rfl rfl

/-! ### The scan that waits for a completion (R7, R17) -/

/-- The running scan is no scan of a SCAN_ONCE. -/
def Scanner.noOnce (c : Scanner) : Prop := c.running.all (fun r => !r.isOnce) = true

theorem noOnce_of_none {c : Scanner} (h : c.running = none) : c.noOnce := by
  unfold Scanner.noOnce
  rw [h]
  rfl

theorem noOnce_startAuto (now : Time) (c : Scanner) : (c.startAuto now).noOnce := rfl

/-- Without a SCAN_ONCE running, the scan that starts at a completion is an AUTO scan (R7). -/
theorem noOnce_startWaiting {c : Scanner} (h : c.running = none) (now : Time) : (c.startWaiting false now).noOnce := by
  unfold Scanner.startWaiting
  rw [h]
  cases c.mode with
  | auto =>
    dsimp only
    split
    · exact noOnce_startAuto now c
    · exact noOnce_of_none h
  | manual => exact noOnce_of_none h

/-- In MANUAL a completion leaves the timer alone (R6). -/
theorem startWaiting_timer_of_manual {c : Scanner} (h : c.mode = .manual) (o : Bool) (now : Time) :
    (c.startWaiting o now).timer = c.timer := by
  unfold Scanner.startWaiting
  split
  · next hm => rw [h] at hm; cases hm
  · split <;> rfl
  · rfl

/-! ### What the invariant looks at -/

/-- The crane side's invariant is a matter of scanner, tracker state, context, window, parameters, slot and table state. -/
theorem craneSafe_congr {s t : State} (h : s.craneSafe) (hscanner : t.scanner = s.scanner) (htracker : t.tracker.state = s.tracker.state)
    (hcontext : t.weigh.context = s.weigh.context) (hwindow : t.weigh.window = s.weigh.window)
    (hparams : t.weigh.params = s.weigh.params) (hslot : t.op.slot = s.op.slot) (htable : t.table.state = s.table.state) :
    t.craneSafe := by
  obtain ⟨hs, hc, hw, ho, hp⟩ := h
  refine ⟨?_, ?_, Weigh.windowFits_congr hw hcontext hwindow, ?_, hparams ▸ hp⟩
  · unfold State.scannerFits at hs ⊢
    rw [hscanner, htracker]
    exact hs
  · rw [contextFits_iff] at hc ⊢
    rw [htracker, hcontext, hwindow]
    exact hc
  · unfold State.operationFits at ho ⊢
    rw [hslot, hscanner, htracker, hwindow, htable]
    exact ho

/-- The lift in progress may change its flags and its sort. -/
theorem State.craneSafe.mapLift {s : State} (h : s.craneSafe) (f : Lift → Lift) (sort : Fin 12) :
    { s with tracker := ⟨s.tracker.state.mapLift f, sort⟩ }.craneSafe := by
  obtain ⟨hs, hc, hw, ho, hp⟩ := h
  refine ⟨?_, ?_, hw, ?_, hp⟩
  · simpa only [State.scannerFits, mapLift_eq_held] using hs
  · rw [contextFits_iff] at hc ⊢
    simpa only [contextMatches_mapLift] using hc
  · simpa only [State.operationFits, mapLift_eq_empty, mapLift_eq_calibration] using ho

/-- A window closes with the samples it has. -/
theorem Weigh.windowFits.close {w : Weigh} (h : w.windowFits) (status : CloseStatus) :
    ({ w with window := { w.window with state := .closed status } } : Weigh).windowFits :=
  h.setState rfl rfl (fun hu => Bool.noConfusion hu) fun hu => WindowState.noConfusion hu

/-! ### Aborting (R142, R143) -/

theorem noOnce_stopOnce (c : Scanner) : c.stopOnce.noOnce := by
  unfold Scanner.noOnce Scanner.stopOnce
  cases hr : c.running with
  | none => simp [hr]
  | some r => cases hl : r.isOnce <;> simp [hl, hr]

/-- An abort ends the operation, and no scan of a SCAN_ONCE runs on (R18). -/
theorem State.craneSafe.abort {s : State} (h : s.craneSafe) (cause : AbortCause) : (abortState cause s).craneSafe := by
  obtain ⟨hs, hc, hw, ho, hp⟩ := h
  have ho' := ho
  unfold State.operationFits at ho'
  rw [contextFits_iff] at hc
  unfold abortState abortDetail
  cases hslot : s.op.slot with
  | none => exact ⟨hs, (contextFits_iff s).2 hc, hw, ho, hp⟩
  | some o =>
    rw [hslot] at ho'
    cases o with
    | zero =>
      obtain ⟨_, _, _, _, _, hrun⟩ := ho'
      exact ⟨hs, (contextFits_iff s).2 hc, hw, hrun, hp⟩
    | span =>
      obtain ⟨htracker, hopened, _, _, _, hrun⟩ := ho'
      have hspan : s.weigh.abortSpan = { s.weigh with window := { s.weigh.window with state := .closed .short } } := if_pos hopened
      dsimp only
      rw [hspan]
      refine ⟨hs, ?_, hw.close .short, hrun, hp⟩
      rw [htracker] at hc
      rw [contextFits_iff]
      simp only [htracker]
      cases hctx : s.weigh.context <;> rw [hctx] at hc <;> first | exact hc.elim | trivial
    | scanOnce =>
      refine ⟨?_, (contextFits_iff s).2 hc, hw, noOnce_stopOnce _, hp⟩
      have hstop : ∃ run, s.scanner.stopOnce = { s.scanner with running := run } := by
        unfold Scanner.stopOnce
        split
        · split <;> exact ⟨_, rfl⟩
        · exact ⟨_, rfl⟩
      obtain ⟨run, hstop⟩ := hstop
      dsimp only
      rw [hstop]
      exact hs

theorem State.craneSafe.abortOp {s : State} (h : s.craneSafe) (cause : AbortCause) : (s.abortOp cause).craneSafe := h.abort cause

/-! ### Requests of the scanner (R15 to R17) -/

/-- MANUAL holds the scanner, and HELD the tracker: neither without the other (R69). -/
theorem State.scannerFits.mode_auto {s : State} (h : s.scannerFits) (hk : s.tracker.state ≠ .held) : s.scanner.mode = .auto := by
  obtain ⟨_, _, _, _, hheld⟩ := h
  cases hm : s.scanner.mode with
  | auto => rfl
  | manual => exact absurd (hheld.1 hm) hk

/-- What an accepted SET_SCAN has passed (R15). -/
theorem setScan_accepted {mode period : Byte} {s : State} {m : ScanMode} (h : setScanStatus mode period s = .ok)
    (hm : scanModeOf mode = some m) : s.op.slot = none ∧ 5 ≤ period.toNat ∧ period.toNat ≤ 100
      ∧ budgetHolds s.scanner.levels period.toNat = true
      ∧ (m = .manual → s.scanner.mode = .auto → s.tracker.state = .empty) := by
  unfold setScanStatus at h
  split at h
  · cases h
  · next hslot =>
    split at h
    · cases h
    · next hrange =>
      split at h
      · cases h
      · next hbudget =>
        split at h
        · cases h
        · next hbusy =>
          simp only [hm, Option.isNone_some, Bool.false_or, Bool.or_eq_true, decide_eq_true_eq, not_or, not_lt] at hrange
          refine ⟨by simpa using hslot, hrange.1, hrange.2, by simpa using hbudget, fun hman hauto => ?_⟩
          subst hman
          simpa [hm, hauto] using hbusy

/-- A scan that starts at the return to AUTO touches nothing of the scanner but the running scan and the timer (R7). -/
theorem startUnlessRunning_eq (now : Time) (c : Scanner) :
    ∃ run timer, (if c.running.isNone then c.startAuto now else c) = { c with running := run, timer := timer }
      ∧ (c.noOnce → ({ c with running := run, timer := timer } : Scanner).noOnce) := by
  split
  · exact ⟨_, _, rfl, fun _ => noOnce_startAuto now c⟩
  · exact ⟨c.running, c.timer, rfl, id⟩

theorem State.craneSafe.applySetScan {s : State} (h : s.craneSafe) {m : ScanMode} {period : Nat} (hslot : s.op.slot = none)
    (h5 : 5 ≤ period) (h100 : period ≤ 100) (hbudget : budgetHolds s.scanner.levels period = true)
    (hempty : m = .manual → s.scanner.mode = .auto → s.tracker.state = .empty) : (applySetScan m period s).craneSafe := by
  obtain ⟨⟨_, _, _, htimer, hheld⟩, hc, hw, ho, hp⟩ := h
  have hrun : s.scanner.noOnce := by
    unfold State.operationFits at ho
    rw [hslot] at ho
    exact ho
  have hop : ∀ {t : State}, t.op.slot = none → t.scanner.noOnce → t.operationFits := fun hs hr => by
    unfold State.operationFits
    rw [hs]
    exact hr
  have hperiod : (s.setPeriod period).craneSafe := ⟨⟨h5, h100, hbudget, htimer, hheld⟩, hc, hw, hop hslot hrun, hp⟩
  rw [contextFits_iff] at hc
  unfold Machine.applySetScan
  split
  · next hauto =>
    rw [hempty rfl hauto] at hc
    refine ⟨⟨h5, h100, hbudget, fun _ => rfl, by simp [enterManual]⟩, ?_, hw, hop hslot hrun, hp⟩
    rw [contextFits_iff]
    show contextMatches .held s.weigh.context _
    cases hctx : s.weigh.context <;> rw [hctx] at hc <;> exact hc
  · next hmanual =>
    rw [hheld.1 hmanual] at hc
    obtain ⟨run, timer, hstart, hnone⟩ :=
      startUnlessRunning_eq s.time { s.scanner with period := period, mode := .auto }
    have hscanner : (leaveManual (s.setPeriod period)).scanner
        = { s.scanner with period := period, mode := .auto, running := run, timer := timer } := hstart
    refine ⟨?_, ?_, hw, hop hslot ?_, hp⟩
    · unfold State.scannerFits
      rw [hscanner]
      exact ⟨h5, h100, hbudget, fun hm => ScanMode.noConfusion hm, fun hm => ScanMode.noConfusion hm, fun hm => TrackerState.noConfusion hm⟩
    · rw [contextFits_iff]
      show contextMatches .empty s.weigh.context _
      cases hctx : s.weigh.context <;> rw [hctx] at hc <;> exact hc
    · rw [hscanner]
      exact hnone hrun
  · exact hperiod
  · exact hperiod

end Sys2Proof.Machine
end

section
/-! The requests and the other commands keep the crane side's invariant (chapters 1, 2, 4, 5, 8). -/
namespace Sys2Proof.Machine

/-! ### Without ZERO and SPAN (R31, R78) -/

/-- Without ZERO and SPAN the operation is a matter of the scanner alone (R17). -/
theorem operationFits_withoutCalibration {s t : State} (h : s.operationFits) (hcal : calibrationRuns s.op.slot = false)
    (hscanner : t.scanner = s.scanner) (hslot : t.op.slot = s.op.slot) : t.operationFits := by
  unfold State.operationFits at h ⊢
  rw [hscanner, hslot]
  cases hs : s.op.slot with
  | none => rwa [hs] at h
  | some o =>
    rw [hs] at h hcal
    cases o with
    | zero => exact absurd hcal (by simp [calibrationRuns])
    | span => exact absurd hcal (by simp [calibrationRuns])
    | scanOnce => exact h

/-- A slot that is IDLE asks that no scan of a SCAN_ONCE runs. -/
theorem operationFits_of_idle {s : State} (h : s.op.slot = none) : s.operationFits ↔ s.scanner.noOnce := by
  unfold State.operationFits Scanner.noOnce
  rw [h]

/-- ZERO and SPAN run with the table VALID (R144, R148). -/
theorem calibrationRuns_eq_false {s : State} (h : s.operationFits) (ht : s.table.state ≠ .valid) : calibrationRuns s.op.slot = false := by
  unfold State.operationFits at h
  cases hs : s.op.slot with
  | none => rfl
  | some o =>
    rw [hs] at h
    cases o with
    | zero => exact absurd h.2.2.1 ht
    | span => exact absurd h.2.2.1 ht
    | scanOnce => rfl

/-- With a lift context a lift is in progress, and ZERO and SPAN do not run (R52, R80, R144, R148). -/
theorem lift_of_isLift {s : State} (h : s.craneSafe) (hc : s.weigh.context.isLift = true) :
    (∀ w : WindowState, contextMatches s.tracker.state s.weigh.context w) ∧ calibrationRuns s.op.slot = false := by
  obtain ⟨_, hmatch, _, ho, _⟩ := h
  rw [contextFits_iff] at hmatch
  have hstate : s.tracker.state ≠ .empty ∧ s.tracker.state ≠ .calibration
      ∧ ∀ w : WindowState, contextMatches s.tracker.state s.weigh.context w := by
    cases hx : s.weigh.context with
    | absent => simp [hx, Context.isLift] at hc
    | calibration => simp [hx, Context.isLift] at hc
    | lift c =>
      rw [hx] at hmatch
      cases hk : s.tracker.state <;> rw [hk] at hmatch
      case gripped | releaseHold => simp [contextMatches]
      all_goals exact hmatch.elim
  refine ⟨hstate.2.2, ?_⟩
  unfold State.operationFits at ho
  cases hs : s.op.slot with
  | none => rfl
  | some o =>
    rw [hs] at ho
    cases o with
    | zero => exact absurd ho.2.1 hstate.1
    | span => exact absurd ho.1 hstate.2.1
    | scanOnce => rfl

/-- SPAN opens its window empty, under a budget of 64 (R100, R148). -/
theorem Weigh.startSpan_fits (w : Weigh) : w.startSpan.windowFits :=
  Weigh.windowFits_of_nil (w := w.startSpan) (fun _ => by show 8 ≤ 64 ∧ 64 ≤ 64; decide) rfl (.inl rfl)

/-- The levels with one channel written (R16). -/
theorem levels_set (c : Scanner) (ch : Fin 12) (x : Channel) :
    ({ c with channels := c.channels.set ch x } : Scanner).levels = c.levels.set ch x.level := by
  ext i hi
  simp only [Scanner.levels, Vector.getElem_ofFn, Fin.getElem_fin, Vector.getElem_set]
  split <;> rfl

namespace State.craneSafe
variable {s : State} (h : s.craneSafe)
include h

/-- Without ZERO and SPAN the table is no matter. -/
theorem setTable (hcal : calibrationRuns s.op.slot = false) (g : Geometry) : { s with table := g }.craneSafe := by
  obtain ⟨hs, hc, hw, ho, hp⟩ := h
  exact ⟨hs, hc, hw, operationFits_withoutCalibration ho hcal rfl rfl, hp⟩

/-- The window of a lift context changes without ZERO and SPAN. -/
theorem setLiftWindow (hlift : s.weigh.context.isLift = true) {u : Window} (hu : ({ s.weigh with window := u } : Weigh).windowFits) :
    { s with weigh := { s.weigh with window := u } }.craneSafe := by
  obtain ⟨hmatch, hcal⟩ := lift_of_isLift h hlift
  obtain ⟨hs, _, _, ho, hp⟩ := h
  exact ⟨hs, (contextFits_iff _).2 (hmatch _), hu, operationFits_withoutCalibration ho hcal rfl rfl, hp⟩

/-! ### The requests -/

theorem answerSetScan (mode period : Byte) : (answerSetScan mode period s).state.craneSafe := by
  unfold Machine.answerSetScan
  split
  · next hok hm =>
    obtain ⟨hslot, h5, h100, hbudget, hempty⟩ := setScan_accepted hok hm
    exact h.applySetScan hslot h5 h100 hbudget hempty
  · exact h

theorem answerSetChannel (channel level : Byte) (lower upper : BitVec 16) :
    (answerSetChannel channel level lower upper s).state.craneSafe := by
  unfold Machine.answerSetChannel
  split
  · exact h
  · next hslot =>
    split
    · exact h
    · next ch c htarget =>
      obtain ⟨⟨h5, h100, _, htimer, hheld⟩, hc, hw, ho, hp⟩ := h
      have hnone : s.op.slot = none := by simpa using hslot
      refine ⟨⟨h5, h100, ?_, htimer, hheld⟩, hc, hw, (operationFits_of_idle hnone).2 ((operationFits_of_idle hnone).1 ho), hp⟩
      have hbudget : budgetHolds (s.scanner.levels.set ch c.level) s.scanner.period = true := by
        unfold setChannelTarget at htarget
        split at htarget
        · split at htarget
          · next hboth =>
            simp only [Option.some.injEq, Prod.mk.injEq] at htarget
            obtain ⟨rfl, rfl⟩ := htarget
            exact (Bool.and_eq_true_iff.1 hboth).2
          · cases htarget
        · cases htarget
      rwa [← levels_set] at hbudget

theorem answerScanOnce : (answerScanOnce s).state.craneSafe := by
  unfold Machine.answerScanOnce
  split
  · exact h
  · split
    · exact h
    · next hauto =>
      obtain ⟨hs, hc, hw, _, hp⟩ := h
      have hmanual : s.scanner.mode = .manual := by
        cases hm : s.scanner.mode
        · exact absurd hm hauto
        · rfl
      have hstart : ∃ run, (if s.scanner.running.isNone then s.scanner.startOnce s.time else s.scanner)
          = { s.scanner with running := run } := by
        split <;> exact ⟨_, rfl⟩
      obtain ⟨run, hstart⟩ := hstart
      dsimp only [Answer.accepted_state]
      rw [hstart]
      exact ⟨hs, hc, hw, hmanual, hp⟩

theorem answerTableBegin : (answerTableBegin s).state.craneSafe := by
  unfold Machine.answerTableBegin
  split
  · exact h
  · next hbusy =>
    have hcal : calibrationRuns s.op.slot = false := by
      simp only [Bool.or_eq_true, not_or, Bool.not_eq_true] at hbusy
      exact hbusy.2
    have hset := h.setTable hcal (Geometry.discard .loading)
    dsimp only [Answer.ok_state]
    split
    · exact hset
    · exact hset

theorem answerTableWrite (row : Byte) (cells : List (BitVec 16 × BitVec 16 × BitVec 16)) :
    (answerTableWrite row cells s).state.craneSafe := by
  unfold Machine.answerTableWrite
  split
  · exact h
  · next hstate =>
    have hcal := calibrationRuns_eq_false h.2.2.2.1 (by rw [not_not.1 hstate]; decide)
    split
    · exact h
    · split
      · exact h
      · exact h.setTable hcal _

theorem answerTableEnd (check : BitVec 16) : (answerTableEnd check s).state.craneSafe := by
  unfold Machine.answerTableEnd
  split
  · exact h
  · next hstate =>
    have hcal := calibrationRuns_eq_false h.2.2.2.1 (by rw [not_not.1 hstate]; decide)
    dsimp only
    split
    · exact h.setTable hcal { s.table with state := .valid }
    · exact h.setTable hcal (Geometry.discard .empty)

theorem answerSetSort (sort apply : Byte) : (answerSetSort sort apply s).state.craneSafe := by
  unfold Machine.answerSetSort
  split
  · exact h
  · split
    · exact h
    · split
      · exact h.mapLift _ _
      · exact craneSafe_congr h rfl rfl rfl rfl rfl rfl rfl

theorem answerMark : (answerMark s).state.craneSafe := by
  unfold Machine.answerMark
  split
  · exact h
  · exact h.mapLift _ _

theorem answerSetWeigh (budget still : Byte) (tolerance motion grip release regrip trim tare : BitVec 16) :
    (answerSetWeigh budget still tolerance motion grip release regrip trim tare s).state.craneSafe := by
  unfold Machine.answerSetWeigh
  dsimp only
  split
  · exact h
  · split
    · exact h
    · next hok =>
      obtain ⟨hs, hc, hw, ho, _⟩ := h
      exact ⟨hs, hc, Weigh.windowFits_congr hw rfl rfl, ho, by simpa using hok⟩

theorem answerWeighFlush : (answerWeighFlush s).state.craneSafe := by
  unfold Machine.answerWeighFlush
  split
  · next hflush =>
    exact h.setLiftWindow (Bool.and_eq_true_iff.1 hflush).1 (h.2.2.1.close .flushed)
  · exact h

theorem answerWeighDiscard : (answerWeighDiscard s).state.craneSafe := by
  unfold Machine.answerWeighDiscard
  dsimp only
  split
  · next hflush =>
    refine h.setLiftWindow (Bool.and_eq_true_iff.1 hflush).1 (Weigh.windowFits_of_nil h.2.2.1.1 rfl (.inl ?_))
    have hlift := (Bool.and_eq_true_iff.1 hflush).1
    cases hx : s.weigh.context <;> simp [Context.isLift, Context.held, hx] at hlift ⊢
  · exact h

theorem answerZero : (answerZero s).state.craneSafe := by
  unfold Machine.answerZero
  split
  · exact h
  · next hslot =>
    split
    · next hcond =>
      simp only [Bool.and_eq_true, decide_eq_true_eq, beq_iff_eq] at hcond
      obtain ⟨⟨hauto, hempty⟩, hvalid⟩ := hcond
      obtain ⟨hs, hc, hw, ho, hp⟩ := h
      have hnone : s.op.slot = none := by simpa using hslot
      exact ⟨hs, hc, hw, ⟨hauto, hempty, hvalid, by decide, by decide, (operationFits_of_idle hnone).1 ho⟩, hp⟩
    · exact h

theorem answerSpan (mass : BitVec 16) : (answerSpan mass s).state.craneSafe := by
  unfold Machine.answerSpan
  split
  · exact h
  · next hslot =>
    split
    · exact h
    · next hmass =>
      split
      · next hcond =>
        simp only [Bool.and_eq_true, beq_iff_eq] at hcond
        obtain ⟨⟨hgripped, _⟩, hvalid⟩ := hcond
        simp only [Bool.or_eq_true, decide_eq_true_eq, not_or, not_lt] at hmass
        have hnone : s.op.slot = none := by simpa using hslot
        have hk : s.tracker.state ≠ .held := fun hk => by rw [hk] at hgripped; exact Bool.noConfusion hgripped
        have hauto := h.1.mode_auto hk
        obtain ⟨⟨h5, h100, hbudget, htimer, _⟩, _, _, ho, hp⟩ := h
        refine ⟨⟨h5, h100, hbudget, htimer, ?_⟩, trivial, ?_, ?_, hp⟩
        · simp [startSpan, hauto]
        · exact Weigh.startSpan_fits _
        · exact ⟨rfl, rfl, hvalid, hmass.1, hmass.2, (operationFits_of_idle hnone).1 ho⟩
      · exact h

theorem answerOpAbort : (answerOpAbort s).state.craneSafe := by
  unfold Machine.answerOpAbort
  split
  · exact h
  · exact h.abortOp .request

/-- The requests of scanner, table, tracker, weigh unit and operation unit keep the invariant; the others do not touch what it looks at. -/
theorem answer (i : Instr) : (answer i s).state.craneSafe := by
  by_cases hi : avoids [0x10, 0x11, 0x12, 0x20, 0x21, 0x22, 0x30, 0x31, 0x38, 0x3A, 0x3B, 0x50, 0x51, 0x52] i = true
  · have sub : ∀ {codes : List Byte}, codes ⊆ [0x10, 0x11, 0x12, 0x20, 0x21, 0x22, 0x30, 0x31, 0x38, 0x3A, 0x3B, 0x50, 0x51, 0x52] →
        avoids codes i = true := avoids_mono hi
    have hweigh := answer_weigh s (i := i) (sub (by decide))
    exact craneSafe_congr h (answer_scanner s (sub (by decide))) (by rw [answer_tracker s (sub (by decide))]) (by rw [hweigh])
      (by rw [hweigh]) (by rw [hweigh]) (by rw [answer_op s (sub (by decide))]) (by rw [answer_table s (sub (by decide))])
  cases i
  case setScan => exact h.answerSetScan _ _
  case setChannel => exact h.answerSetChannel _ _ _ _
  case scanOnce => exact h.answerScanOnce
  case tableBegin => exact h.answerTableBegin
  case tableWrite => exact h.answerTableWrite _ _
  case tableEnd => exact h.answerTableEnd _
  case setSort => exact h.answerSetSort _ _
  case mark => exact h.answerMark
  case setWeigh => exact h.answerSetWeigh _ _ _ _ _ _ _ _ _
  case weighFlush => exact h.answerWeighFlush
  case weighDiscard => exact h.answerWeighDiscard
  case zero => exact h.answerZero
  case span => exact h.answerSpan _
  case opAbort => exact h.answerOpAbort
  case unknownRequest => exact h
  all_goals exact absurd rfl hi

end State.craneSafe

end Sys2Proof.Machine
end

section
/-! A scan completion and the commands of time keep the crane side's invariant (chapters 1, 4, 5, 8). -/
namespace Sys2Proof.Machine

/-! ### A running operation across a completion (R145, R149) -/

/-- Only a gripping scan leaves EMPTY (R57). -/
theorem Transition.empty_stays {v : ScanView} {s : State} {k : TrackerState} {w : Weigh} (h : Transition v s k w)
    (hg : v.scan.gripping s.weigh.params = false) (hs : s.tracker.state = .empty) : k = .empty := by
  cases h with
  | stays => exact hs
  | grips hg' => exact Bool.noConfusion (hg.symm.trans hg')
  | regrips _ _ _ hg' => exact Bool.noConfusion (hg.symm.trans hg')
  | finalizes => rfl
  | releases _ _ _ hs' => exact TrackerState.noConfusion (hs.symm.trans hs')
  | leavesCalibration => rfl

/-- Only a releasing scan leaves CALIBRATION (R68). -/
theorem Transition.calibration_stays {v : ScanView} {s : State} {k : TrackerState} {w : Weigh} (h : Transition v s k w)
    (hr : v.scan.releasing s.weigh.params = false) (hs : s.tracker.state = .calibration) : k = .calibration ∧ w = s.weigh := by
  cases h with
  | stays => exact ⟨hs, rfl⟩
  | grips _ hs' => exact TrackerState.noConfusion (hs.symm.trans hs')
  | regrips _ _ _ _ hs' => exact TrackerState.noConfusion (hs.symm.trans hs')
  | finalizes _ _ hr' => exact Bool.noConfusion (hr.symm.trans hr')
  | releases _ _ hr' => exact Bool.noConfusion (hr.symm.trans hr')
  | leavesCalibration _ hr' => exact Bool.noConfusion (hr.symm.trans hr')

/-- An OPEN window that a scan closes neither with FULL nor with FAULT stays OPEN under a calibration context (R91 to R93, R100). -/
theorem windowAfter_opened {w : Weigh} {c : CalContext} (hc : w.context = .calibration c) (hopen : w.window.state = .opened)
    {v : ScanView} {weight : Option Int} (hfull : (windowAfter w v weight).state ≠ .closed .full)
    (hfault : (windowAfter w v weight).state ≠ .closed .fault) : (windowAfter w v weight).state = .opened := by
  revert hfull hfault
  simp only [windowAfter, hc]
  split
  · exact fun _ _ => hopen
  · obtain h | ⟨_, h⟩ | ⟨x, _, h | ⟨h, _⟩ | ⟨hstill, _⟩⟩ :=
      Window.laterSteps_cases v c.budget none (acceptedSample w c.motion v weight) w.window
    · rw [h]; exact fun _ _ => hopen
    · rw [h]; exact fun _ hfault => absurd rfl hfault
    · rw [h]; exact fun hfull _ => absurd rfl hfull
    · rw [h]; exact fun _ _ => hopen
    · exact absurd rfl hstill

section
variable {s : State} (run : ScanRun) (raw : Vector (BitVec 16) 12)

theorem noOnce_completeScan (h : (operationStep run raw s).slot ≠ some .scanOnce) : (completeScan run raw s).scanner.noOnce := by
  have hfalse : ((operationStep run raw s).slot == some .scanOnce) = false := by simpa using h
  rw [completeScan_scanner]
  show (Scanner.startWaiting ((operationStep run raw s).slot == some .scanOnce) s.time _).noOnce
  rw [hfalse]
  exact noOnce_startWaiting rfl s.time

theorem completeScan_scannerFits (h : s.scannerFits) : (completeScan run raw s).scannerFits := by
  obtain ⟨h5, h100, hbudget, htimer, hheld⟩ := h
  unfold State.scannerFits
  rw [completeScan_held_iff, completeScan_scanner]
  simp only [startWaiting_mode, startWaiting_period, Scanner.levels, startWaiting_channels]
  refine ⟨h5, h100, hbudget, fun hm => ?_, hheld⟩
  exact (startWaiting_timer_of_manual (c := { s.scanner with running := none, latest := _ }) hm _ _).trans (htimer hm)

theorem completeScan_unit_slot : (completeScan run raw s).op.slot
    = if (operationStep run raw s).done = none then (operationStep run raw s).slot else none := by
  rw [completeScan_op]
  show (OpStep.unit (operationStep run raw s) s.op.last).slot = _
  unfold OpStep.unit
  split
  · next hd => simp [hd]
  · next hd => simp [hd, OpUnit.ended]

/-- At a completion the operation ends, or its conditions still hold: ZERO needs a scan that does not grip, SPAN one that does not
release, and the scan of a SCAN_ONCE is still to come (R145, R149, R151). -/
theorem completeScan_operationFits (h : s.craneSafe) : (completeScan run raw s).operationFits := by
  obtain ⟨hscanner, hmatch, _, ho, _⟩ := h
  have hcounts : ∀ count sum skipped, s.op.slot = some (.zero count sum skipped) → count < 32 ∧ skipped < 8 := by
    intro count sum skipped hs
    unfold State.operationFits at ho
    rw [hs] at ho
    exact ⟨ho.2.2.2.1, ho.2.2.2.2.1⟩
  have hslot := completeScan_unit_slot run raw (s := s)
  have htransition := completeScan_transition run raw s
  obtain hnone | ⟨hdone, o, o', hs, hs', hruns⟩ := opAtScan_cases hcounts run.isOnce s.weigh.params (completedScan raw s)
    (scanWeight (scanView raw s) s) (windowAfter s.weigh (scanView raw s) (scanWeight (scanView raw s) s))
  · have hidle : (operationStep run raw s).slot = none := hnone
    rw [hidle, ite_self] at hslot
    exact (operationFits_of_idle hslot).2 (noOnce_completeScan run raw (by rw [hidle]; exact nofun))
  · have hstep : (operationStep run raw s).slot = some o' := hs'
    rw [if_pos (show (operationStep run raw s).done = none from hdone), hstep] at hslot
    unfold State.operationFits at ho ⊢
    rw [hs] at ho
    rw [hslot]
    cases hruns with
    | zero hg hc hk =>
      obtain ⟨hauto, hempty, hvalid, _, _, _⟩ := ho
      refine ⟨by simpa using hauto, ?_, by simpa using hvalid, hc, hk, noOnce_completeScan run raw (by rw [hstep]; exact nofun)⟩
      refine htransition.empty_stays hg ?_
      obtain heq | ⟨f, heq⟩ := beforeTrack_tracker_state run raw s
      · rw [heq, hempty]
      · rw [heq, hempty]; rfl
    | span hr hfull hfault =>
      obtain ⟨hcal, hopen, hvalid, hmass, hmass', _⟩ := ho
      have hbefore : (beforeTrack run raw s).tracker.state = .calibration := by
        obtain heq | ⟨f, heq⟩ := beforeTrack_tracker_state run raw s
        · rw [heq, hcal]
        · rw [heq, hcal]; rfl
      obtain ⟨hstays, hweigh⟩ := htransition.calibration_stays hr hbefore
      refine ⟨hstays, ?_, by simpa using hvalid, hmass, hmass', noOnce_completeScan run raw (by rw [hstep]; exact nofun)⟩
      rw [completeScan_window, hweigh, beforeTrack_window]
      rw [contextFits_iff, hcal] at hmatch
      cases hc : s.weigh.context <;> rw [hc] at hmatch
      case calibration c => exact windowAfter_opened hc hopen hfull hfault
      all_goals exact hmatch.elim
    | scanOnce => simpa using ho

theorem State.craneSafe.completeScan (h : s.craneSafe) : (completeScan run raw s).craneSafe := by
  have hop := completeScan_operationFits run raw h
  obtain ⟨hscanner, hmatch, hfits, _, hparams⟩ := h
  obtain ⟨hc, hw⟩ := completeScan_fits run raw s hparams hmatch hfits
  refine ⟨completeScan_scannerFits run raw hscanner, hc, hw, hop, ?_⟩
  rw [completeScan_params]
  exact weighParamsOk_write hparams _ _ _ _ _ _

end

/-! ### The other commands -/

namespace State.craneSafe
variable {s : State} (h : s.craneSafe)
include h

/-- Permit unit, event unit, pose, zones, tally and record queue are no matter of the crane side. -/
theorem supervisionTimerExpiry : (supervisionTimerExpiry s).craneSafe := by
  unfold Machine.supervisionTimerExpiry
  split
  · split
    · exact h
    · have hraised : (s.raise (.supervisionStop s.permit.sup.interval s.permit.sup.lastGood (s.op.slot.map Op.kind) s.time)).craneSafe := h
      exact craneSafe_congr (hraised.abortOp .supervision) rfl rfl rfl rfl rfl rfl rfl
    · exact h
    · exact h
  · exact h

theorem auxDebounceExpiry (line : Fin 4) : (auxDebounceExpiry line s).craneSafe := by
  unfold Machine.auxDebounceExpiry edgeEffect
  dsimp only
  split
  · split
    · exact h
    · exact h
    · exact h
    · split
      · exact h.mapLift _ _
      · exact h
  · exact h

theorem auxInputChange (line : Fin 4) (high : Bool) : (auxInputChange line high s).craneSafe := by
  have hframe := auxInputChange_frame line high s
  have hfield {α : Type} (f : State → α) := congrArg f hframe
  exact craneSafe_congr h (hfield State.scanner) (hfield fun t => t.tracker.state) (hfield fun t => t.weigh.context)
    (hfield fun t => t.weigh.window) (hfield fun t => t.weigh.params) (hfield fun t => t.op.slot) (hfield fun t => t.table.state)

/-- At the end of the regrip time the lift leaves tracker and weigh unit (R61, R63). -/
theorem regripTimerExpiry : (regripTimerExpiry s).craneSafe := by
  unfold Machine.regripTimerExpiry
  split
  · next l rel expiry hk =>
    split
    · have hlift : s.weigh.context.isLift = true := by
        have hmatch := h.2.1
        rw [contextFits_iff, hk] at hmatch
        cases hc : s.weigh.context <;> rw [hc] at hmatch
        case lift => rfl
        all_goals exact hmatch.elim
      have hauto := h.1.mode_auto (by rw [hk]; exact nofun)
      have hcal := (lift_of_isLift h hlift).2
      obtain ⟨⟨h5, h100, hbudget, htimer, _⟩, _, _, ho, hp⟩ := h
      have hfinal : (finalize l rel s.time s).1.craneSafe :=
        ⟨⟨h5, h100, hbudget, htimer, by simp [finalize, hauto]⟩, rfl,
          Weigh.windowFits_of_nil (w := s.weigh.release) (fun hheld => Bool.noConfusion hheld) rfl (.inr rfl),
          operationFits_withoutCalibration ho hcal rfl rfl, hp⟩
      exact craneSafe_congr hfinal (by simp) (by simp) (by simp) (by simp) (by simp) (by simp) (by simp)
    · exact h
  all_goals exact h

theorem scanTimerExpiry : (scanTimerExpiry s).craneSafe := by
  unfold Machine.scanTimerExpiry
  split
  · next hdue =>
    obtain ⟨⟨h5, h100, hbudget, htimer, hheld⟩, hc, hw, ho, hp⟩ := h
    have hauto : s.scanner.mode = .auto := by
      simp only [Scanner.timerDue, Bool.and_eq_true, beq_iff_eq] at hdue
      exact hdue.1
    have hexpire : ∃ run timer, s.scanner.expire s.time = { s.scanner with running := run, timer := timer }
        ∧ (s.scanner.noOnce → ({ s.scanner with running := run, timer := timer } : Scanner).noOnce) := by
      unfold Scanner.expire
      split
      · exact ⟨_, _, rfl, fun _ => noOnce_startAuto s.time s.scanner⟩
      · exact ⟨_, _, rfl, id⟩
    obtain ⟨run, timer, hexpire, hnone⟩ := hexpire
    rw [hexpire]
    refine ⟨⟨h5, h100, hbudget, fun hm => ScanMode.noConfusion (hauto.symm.trans hm), hheld⟩, hc, hw, ?_, hp⟩
    unfold State.operationFits at ho ⊢
    cases hs : s.op.slot with
    | none => rw [hs] at ho; exact hnone ho
    | some o =>
      rw [hs] at ho
      cases o with
      | zero =>
        obtain ⟨ha, he, hv, hcount, hskipped, hrun⟩ := ho
        exact ⟨ha, he, hv, hcount, hskipped, hnone hrun⟩
      | span =>
        obtain ⟨ht, hopen, hv, hmass, hmass', hrun⟩ := ho
        exact ⟨ht, hopen, hv, hmass, hmass', hnone hrun⟩
      | scanOnce => exact ho
  · exact h

/-- A link reset aborts the operation and drops a table that is LOADING (R37, R143). -/
theorem linkReset (cause : StartCause) : (linkReset cause s).craneSafe := by
  have ha := h.abort .linkReset
  have hidle : (abortState .linkReset s).op.slot = none := by
    unfold abortState abortDetail
    cases hs : s.op.slot with
    | none => exact hs
    | some o => cases o <;> rfl
  have ht := ha.setTable (by rw [hidle]; rfl) s.table.linkReset
  exact craneSafe_congr ht (by simp) (by simp) (by simp) (by simp) (by simp) (by simp) (by simp)

end State.craneSafe

/-- Power-on (R69, R87, R194). -/
theorem reset_craneSafe : State.reset.craneSafe := by
  refine ⟨⟨by decide, by decide, by decide, by decide, by decide⟩, rfl, ⟨nofun, by decide, by decide, by decide⟩, rfl, by decide⟩

theorem craneSafe_kept : Kept State.craneSafe where
  link _ _ h := h
  raise _ _ h := h
  noticeBegun _ _ h := h
  noticeSent _ h := h
  free _ _ h := h
  answer i _ h := h.answer i
  goodFrame _ h := craneSafe_congr h (by simp) (by simp) (by simp) (by simp) (by simp) (by simp) (by simp)
  powerOn _ _ _ := craneSafe_congr reset_craneSafe rfl rfl rfl rfl rfl rfl rfl
  linkReset cause _ h := h.linkReset cause
  mark _ _ h := h
  remove _ _ h := h
  scanTimer _ h := h.scanTimerExpiry
  scan run raw _ _ h := h.completeScan run raw
  regrip _ h := h.regripTimerExpiry
  auxInput line high _ h := h.auxInputChange line high
  auxDebounce line _ h := h.auxDebounceExpiry line
  supervision _ h := h.supervisionTimerExpiry

end Sys2Proof.Machine
end

section
/-! The scanner keeps time (R2, R4, R5), and O59. -/
namespace Sys2Proof.Machine

/-! ### A scanner on time -/

/-- The scanner keeps time at the moment `now`: the running scan has not outlived its length, the timer expires beyond its end and
within the longest period (R2, R4, R5). -/
def Scanner.onTime (now : Time) (c : Scanner) : Prop :=
  (∀ run, c.running = some run → (now - run.start).toNat ≤ scanDuration run.levels / 1000
      ∧ ∀ e, c.timer = some e → scanDuration run.levels / 1000 < (e - run.start).toNat)
    ∧ ∀ e, c.timer = some e → (e - now).toNat ≤ 100

theorem scanOnTime_iff (s : State) : s.scanOnTime ↔ s.scanner.onTime s.time := Iff.rfl

/-- Only the running scan and the timer are a matter of time. -/
theorem onTime_congr {now : Time} {c d : Scanner} (h : c.onTime now) (hrun : d.running = c.running) (htimer : d.timer = c.timer) :
    d.onTime now := by
  unfold Scanner.onTime at h ⊢
  rw [hrun, htimer]
  exact h

namespace Scanner.onTime
variable {now : Time} {c : Scanner} (h : c.onTime now)
include h

/-- Without the running scan only the timer counts. -/
theorem stopped {d : Scanner} (hrun : d.running = none) (htimer : d.timer = c.timer) : d.onTime now := by
  refine ⟨fun run hr => ?_, fun e he => h.2 e (htimer ▸ he)⟩
  rw [hrun] at hr
  cases hr

/-- Without the timer only the running scan counts. -/
theorem untimed {d : Scanner} (hrun : d.running = c.running) (htimer : d.timer = none) : d.onTime now := by
  refine ⟨fun run hr => ⟨(h.1 run (hrun ▸ hr)).1, fun e he => ?_⟩, fun e he => ?_⟩
  all_goals
    rw [htimer] at he
    cases he

end Scanner.onTime

/-- A scan that starts now is on time where no timer runs (R17). -/
theorem startOnce_onTime {now : Time} {c : Scanner} (h : c.timer = none) : (c.startOnce now).onTime now := by
  have hnone : ∀ e, (c.startOnce now).timer ≠ some e := fun e he => by cases h.symm.trans he
  refine ⟨fun run hr => ?_, fun e he => absurd he (hnone e)⟩
  cases hr
  exact ⟨by simp, fun e he => absurd he (hnone e)⟩

theorem addMs_sub (now : Time) {n : Nat} (hn : n ≤ 100) : (addMs now n - now).toNat = n := by
  unfold addMs
  bv_omega

/-- The budget lets an AUTO scan end before the timer that starts with it expires (R4, R5). -/
theorem startAuto_onTime {now : Time} {c : Scanner} (hbudget : budgetHolds c.levels c.period = true) (h100 : c.period ≤ 100) :
    (c.startAuto now).onTime now := by
  have hshort : scanDuration c.levels / 1000 < c.period := by
    have : scanDuration c.levels + 1000 ≤ c.period * 1000 := by simpa [budgetHolds] using hbudget
    omega
  refine ⟨fun run hr => ?_, fun e he => ?_⟩
  · cases hr
    refine ⟨by simp, fun e he => ?_⟩
    cases he
    rw [addMs_sub now h100]
    exact hshort
  · cases he
    rw [addMs_sub now h100]
    exact h100

/-- After a completion the scanner is on time, whether a scan waited or not (R7, R17). -/
theorem startWaiting_onTime {now : Time} {c : Scanner} (h : c.onTime now) (hrun : c.running = none)
    (hbudget : budgetHolds c.levels c.period = true) (h100 : c.period ≤ 100) (htimer : c.mode = .manual → c.timer = none) (o : Bool) :
    (c.startWaiting o now).onTime now := by
  unfold Scanner.startWaiting
  rw [hrun]
  cases hm : c.mode with
  | auto =>
    dsimp only
    split
    · exact startAuto_onTime hbudget h100
    · exact h
  | manual =>
    dsimp only
    split
    · exact startOnce_onTime (htimer hm)
    · exact h

/-- An abort stops the scan of a SCAN_ONCE, and no other (R18). -/
theorem abortState_running (cause : AbortCause) (s : State) :
    (abortState cause s).scanner.running = none ∨ (abortState cause s).scanner.running = s.scanner.running := by
  unfold abortState abortDetail
  cases s.op.slot with
  | none => exact .inr rfl
  | some o =>
    cases o with
    | zero => exact .inr rfl
    | span => exact .inr rfl
    | scanOnce =>
      dsimp only [Scanner.stopOnce]
      split
      · split
        · exact .inl rfl
        · exact .inr rfl
      · exact .inr rfl

/-! ### The commands -/

/-- The crane side is safe and its scanner on time. -/
def State.safeOnTime (s : State) : Prop := s.craneSafe ∧ s.scanner.onTime s.time

theorem State.safeOnTime.of_same_scanner {s t : State} (h : s.safeOnTime) (hsafe : t.craneSafe) (hscanner : t.scanner = s.scanner)
    (htime : t.time = s.time) : t.safeOnTime := by
  refine ⟨hsafe, ?_⟩
  rw [hscanner, htime]
  exact h.2

namespace State.safeOnTime
variable {s : State} (h : s.safeOnTime)
include h

theorem answerSetScan (mode period : Byte) : (answerSetScan mode period s).state.safeOnTime := by
  refine ⟨h.1.answerSetScan mode period, ?_⟩
  unfold Machine.answerSetScan
  split
  · next hok hm =>
    obtain ⟨_, h5, h100, hbudget, _⟩ := setScan_accepted hok hm
    dsimp only [Answer.ok_state]
    unfold applySetScan
    split
    · exact h.2.untimed (d := { s.scanner with period := period.toNat, mode := .manual, timer := none }) rfl rfl
    · next hmanual =>
      show ((if s.scanner.running.isNone then
        ({ s.scanner with period := period.toNat, mode := .auto } : Scanner).startAuto s.time
        else { s.scanner with period := period.toNat, mode := .auto }) : Scanner).onTime s.time
      split
      · exact startAuto_onTime hbudget h100
      · exact onTime_congr h.2 rfl rfl
    · exact onTime_congr h.2 rfl rfl
    · exact onTime_congr h.2 rfl rfl
  · exact h.2

theorem answerSetChannel (channel level : Byte) (lower upper : BitVec 16) :
    (answerSetChannel channel level lower upper s).state.safeOnTime := by
  refine ⟨h.1.answerSetChannel channel level lower upper, ?_⟩
  unfold Machine.answerSetChannel
  split
  · exact h.2
  · split
    · exact h.2
    · exact onTime_congr h.2 rfl rfl

theorem answerScanOnce : (answerScanOnce s).state.safeOnTime := by
  refine ⟨h.1.answerScanOnce, ?_⟩
  unfold Machine.answerScanOnce
  split
  · exact h.2
  · split
    · exact h.2
    · next hauto =>
      have htimer : s.scanner.timer = none := h.1.1.2.2.2.1 (by cases hm : s.scanner.mode <;> [exact absurd hm hauto; rfl])
      show (if s.scanner.running.isNone then s.scanner.startOnce s.time else s.scanner).onTime s.time
      split
      · exact startOnce_onTime htimer
      · exact h.2

/-- An abort can stop the running scan (R18). -/
theorem abort (cause : AbortCause) : (abortState cause s).safeOnTime := by
  refine ⟨h.1.abort cause, ?_⟩
  rw [abortState_time]
  have htimer := congrArg Scanner.timer (abortState_scanner cause s)
  obtain hrun | hrun := abortState_running cause s
  · exact h.2.stopped hrun htimer
  · exact onTime_congr h.2 hrun htimer

theorem abortOp (cause : AbortCause) : (s.abortOp cause).safeOnTime := (h.abort cause).of_same_scanner (h.1.abortOp cause) rfl rfl

theorem answer (i : Instr) : (answer i s).state.safeOnTime := by
  by_cases hi : avoids [0x10, 0x11, 0x12, 0x52] i = true
  · exact h.of_same_scanner (h.1.answer i) (answer_scanner s hi) (answer_time s)
  cases i
  case setScan => exact h.answerSetScan _ _
  case setChannel => exact h.answerSetChannel _ _ _ _
  case scanOnce => exact h.answerScanOnce
  case opAbort =>
    simp only [Machine.answer, Machine.answerOpAbort]
    split
    · exact h
    · exact h.abortOp .request
  case unknownRequest => exact h
  all_goals exact absurd rfl hi

theorem completeScan (run : ScanRun) (raw : Vector (BitVec 16) 12) : (completeScan run raw s).safeOnTime := by
  refine ⟨h.1.completeScan run raw, ?_⟩
  obtain ⟨_, h100, hbudget, htimer, _⟩ := h.1.1
  rw [completeScan_time, completeScan_scanner]
  exact startWaiting_onTime (c := { s.scanner with running := none, latest := _ }) (h.2.stopped rfl rfl) rfl hbudget h100 htimer _

/-- A scan timer that expires finds no scan in progress (R4). -/
theorem scanTimerExpiry : (scanTimerExpiry s).safeOnTime := by
  refine ⟨h.1.scanTimerExpiry, ?_⟩
  unfold Machine.scanTimerExpiry
  split
  · next hdue =>
    obtain ⟨_, h100, hbudget, _, _⟩ := h.1.1
    simp only [Scanner.timerDue, Bool.and_eq_true, beq_iff_eq] at hdue
    have hnone : s.scanner.running = none := by
      cases hr : s.scanner.running with
      | none => rfl
      | some run =>
        obtain ⟨hle, hlt⟩ := h.2.1 run hr
        exact absurd (hlt _ hdue.2) (not_lt.2 hle)
    show (s.scanner.expire s.time).onTime s.time
    rw [Scanner.expire, if_pos (by rw [hnone]; rfl)]
    exact startAuto_onTime hbudget h100
  · exact h.2

theorem supervisionTimerExpiry : (supervisionTimerExpiry s).safeOnTime := by
  refine ⟨h.1.supervisionTimerExpiry, ?_⟩
  unfold Machine.supervisionTimerExpiry
  split
  · split
    · exact h.2
    · have hraised : (s.raise (.supervisionStop s.permit.sup.interval s.permit.sup.lastGood (s.op.slot.map Op.kind) s.time)).safeOnTime := h
      exact (hraised.abortOp .supervision).2
    · exact h.2
    · exact h.2
  · exact h.2

end State.safeOnTime

theorem reset_onTime : State.reset.scanner.onTime State.reset.time := by
  refine ⟨fun run hr => ?_, fun e he => ?_⟩
  · cases hr
    refine ⟨by decide, fun e he => ?_⟩
    cases he
    decide
  · cases he
    decide

theorem safeOnTime_kept : Kept State.safeOnTime where
  link _ _ h := h
  raise _ _ h := h
  noticeBegun _ _ h := h
  noticeSent _ h := h
  free _ _ h := h
  answer i _ h := h.answer i
  goodFrame _ h := h.of_same_scanner (craneSafe_kept.goodFrame _ h.1) (by simp) (by simp)
  powerOn levels s h := ⟨craneSafe_kept.powerOn levels s h.1, reset_onTime⟩
  linkReset cause _ h := (h.abort .linkReset).of_same_scanner (h.1.linkReset cause) (by simp) (by simp)
  mark _ _ h := h
  remove _ _ h := h
  scanTimer _ h := h.scanTimerExpiry
  scan run raw _ _ h := h.completeScan run raw
  regrip s h := by
    have hframe := regripTimerExpiry_frame s
    have hscanner := congrArg State.scanner hframe
    have htime := congrArg State.time hframe
    exact h.of_same_scanner h.1.regripTimerExpiry hscanner htime
  auxInput line high s h := by
    have hframe := auxInputChange_frame line high s
    have hscanner := congrArg State.scanner hframe
    have htime := congrArg State.time hframe
    exact h.of_same_scanner (h.1.auxInputChange line high) hscanner htime
  auxDebounce line s h := by
    have hframe := auxDebounceExpiry_frame line s
    have hscanner := congrArg State.scanner hframe
    have htime := congrArg State.time hframe
    exact h.of_same_scanner (h.1.auxDebounceExpiry line) hscanner htime
  supervision _ h := h.supervisionTimerExpiry

/-! ### The time counter (R1) -/

/-- Where no completion and no expiry is due, the scanner is on time a millisecond later. -/
theorem State.safeOnTime.tick {s : State} (h : s.safeOnTime) (hscan : s.scanner.completionDue s.time = false)
    (htimer : s.scanner.timerDue s.time = false) : s.scanner.onTime (s.time + 1) := by
  obtain ⟨hsafe, hrun, hexpires⟩ := h
  have hlater : ∀ e, s.scanner.timer = some e → e ≠ s.time := by
    intro e he hnow
    subst hnow
    have hauto : s.scanner.mode = .auto := by
      cases hm : s.scanner.mode with
      | auto => rfl
      | manual => exact by cases (hsafe.1.2.2.2.1 hm).symm.trans he
    simp [Scanner.timerDue, hauto, he] at htimer
  refine ⟨fun run hr => ⟨?_, (hrun run hr).2⟩, fun e he => ?_⟩
  · have hopen : ¬scanDuration run.levels / 1000 ≤ (s.time - run.start).toNat := by
      simpa [Scanner.completionDue, hr, ScanRun.canComplete] using hscan
    have := hrun run hr
    bv_omega
  · have := hexpires e he
    have := hlater e he
    bv_omega

theorem step_keeps_safeOnTime {s t : State} (h : s.safeOnTime) (e : step s = .next t) : t.safeOnTime := by
  unfold step at e
  split at e
  · next c rest _ =>
    have hqueue : { s with pending := rest }.safeOnTime := h
    exact safeOnTime_kept.exec _ _ _ hqueue e
  · rw [← Host.Outcome.next.inj e]
    unfold idle
    split
    · next hempty =>
      have hdue : ∀ l ∈ due s, l = [] := by simpa [List.flatten_eq_nil_iff] using hempty
      refine ⟨h.1, h.tick ?_ ?_⟩
      · have := hdue (dueWhen (s.scanner.completionDue s.time) (.scanCompletion (freeCounts s.free))) (by simp [due])
        simpa [dueWhen] using this
      · have := hdue (dueWhen (s.scanner.timerDue s.time) .scanTimerExpiry) (by simp [due])
        simpa [dueWhen] using this
    · exact h

/-- Settles O59: the crane side's invariant is kept as such, and with the scanner's time as one invariant. -/
theorem stepKeepsTheCraneSideSafe : Obligations.StepKeepsTheCraneSideSafe :=
  fun s t h hstep => ⟨craneSafe_kept.step (fun _ _ h => h) (fun _ _ h => h) s t h hstep,
    fun htime => (step_keeps_safeOnTime ⟨h, htime⟩ hstep).2⟩

end Sys2Proof.Machine
end

section
/-! The values after power-on (R194 and the chapters' own rules), and that the invariants hold there. -/
namespace Sys2Proof.Machine

/-- A supply with all aux inputs low takes the reset state to itself. -/
theorem powerOn_reset : powerOn 0 State.reset = State.reset := by decide

/-- POWER_ON keeps of the state before it the waiting commands alone, and takes the input levels of the aux lines (log 11, log 20). -/
theorem powerOn_aux (levels : BitVec 4) (s : State) (l : Fin 4) :
    (powerOn levels s).permit.aux[l] = { State.reset.permit.aux[l] with input := levels.getLsbD l.val } := by
  simp [powerOn]

theorem reset_band (c : Fin 12) : State.reset.scanner.channels[c].level = 2
    ∧ (c ≠ 11 → State.reset.scanner.channels[c].lower = fullRangeLow c ∧ State.reset.scanner.channels[c].upper = fullRangeHigh c) := by
  revert c
  decide

theorem reset_zone (e : Fin 16) : State.reset.zones.entries[e].contents = none ∧ State.reset.zones.entries[e].result = .notJudged
    ∧ State.reset.zones.entries[e].edited = false := by
  revert e
  decide

theorem reset_line (l : Fin 4) : State.reset.permit.aux[l].mode = .off ∧ State.reset.permit.aux[l].activeHigh = true
    ∧ State.reset.permit.aux[l].level = false ∧ State.reset.permit.aux[l].lastEdge = none := by
  revert l
  decide

/-- RESTARTED is the one occurrence of a supply, and only LIFT_DONE and LINE_STATE are not enabled (R171, R180). -/
theorem reset_kind (k : Kind) : State.reset.events.isEnabled k = (k != .liftDone && k != .lineState)
    ∧ State.reset.events.count k = (if k = .restarted then 1 else 0)
    ∧ State.reset.events.detail k = (if k = .restarted then some (.restarted .power false 0) else none) := by
  cases k <;> decide

/-- Settles O3: scanner, geometry, weigh unit, tally, records, permits, events, link, in the statement's order. -/
theorem powerOnValues : Obligations.PowerOnValues := by
  refine ⟨rfl, rfl, rfl, rfl, rfl, fun c => (reset_band c).1, fun c => (reset_band c).2, rfl, rfl, rfl, rfl, rfl, rfl, by decide, rfl,
    reset_zone, rfl, rfl, rfl, rfl, rfl, rfl, rfl, rfl, rfl, rfl, rfl, by decide, rfl, rfl, rfl, rfl, rfl, rfl, rfl, rfl, rfl, rfl, rfl,
    rfl, rfl, reset_line, rfl, rfl, rfl, rfl, fun k => (reset_kind k).1, fun k => (reset_kind k).2.1, fun k => (reset_kind k).2.2, rfl,
    rfl, rfl, rfl, rfl, rfl, rfl, rfl, rfl, rfl, rfl, rfl, rfl, rfl, rfl, rfl, fun levels u => ⟨powerOn levels u, rfl, ?_⟩⟩
  exact ⟨rfl, rfl, rfl, rfl, rfl, rfl, rfl, rfl, rfl, rfl, rfl, rfl, rfl, rfl, rfl, rfl, powerOn_aux levels u⟩

/-- Settles O60: each invariant at the reset state, from its own chapter's lemma where it has one. -/
theorem invariantsHoldAtReset : Obligations.InvariantsHoldAtReset := by
  obtain ⟨hrange, hbalances, hfresh⟩ := Tally.reset_sound
  have hpermits : State.reset.permitsAgree := powerOn_reset ▸ powerOn_permitsAgree 0 State.reset
  exact ⟨hpermits, hrange, hbalances, hfresh, ⟨by decide, by decide, rfl⟩, by decide, EventUnit.reset_settled, fun _ => rfl,
    reset_sup_consistent, Geometry.consistent_discard (state := .empty) (by decide), reset_craneSafe, reset_onTime⟩

end Sys2Proof.Machine
end

section
/-! Request frames (R181, R186, R196): every well-formed request is read back from its frame, and taken at once it is answered by its
block. -/
namespace Sys2Proof.Machine

/-! ### Frames spell their requests (R196) -/

theorem commandOf_tallySet (tag : Byte) {weights : List (BitVec 24)} (h : weights.length = 12) :
    commandOf ⟨tag, 0x42, splitWeights weights⟩ = some (.tallySet tag weights) := by
  simp [commandOf, Laws.splitWeights_length, h]

/-- The code of a request is listed, unless the request is an UNKNOWN_REQUEST. -/
theorem listed_or_unknown {i : Instr} {f : RequestFrame} (hf : requestOf i = some f) :
    f.code.toNat ∈ requestCodes ∨ i = .unknownRequest f.tag f.code f.values := by
  cases i <;> simp only [requestOf, Option.some.injEq, reduceCtorEq] at hf <;> subst hf
  case unknownRequest => exact .inr rfl
  all_goals
    left
    simp [requestCodes, frameSetScan, frameSetChannel, frameSetCrane, frameTableWrite, frameSetZone, frameSetWeigh]

/-- The frame of a request of the list is read back as that request: byte operands stand as they are, wider ones are joined again. -/
theorem commandOf_requestOf {i : Instr} {f : RequestFrame} (hf : requestOf i = some f) (hw : i.wf = true)
    (hlisted : f.code.toNat ∈ requestCodes) : commandOf f = some i := by
  cases i <;> simp only [requestOf, Option.some.injEq, reduceCtorEq] at hf <;> subst hf
  case unknownRequest tag code values =>
    have hunlisted : code.toNat ∉ requestCodes := by
      simp only [Instr.wf, Bool.and_eq_true, Bool.not_eq_true', List.contains_eq_mem, decide_eq_false_iff_not] at hw
      exact hw.1
    exact absurd hlisted hunlisted
  case tableWrite tag row cells => exact commandOf_frameTableWrite tag row (by simpa [Instr.wf] using hw)
  case tallySet tag weights => exact commandOf_tallySet tag (by simpa [Instr.wf] using hw)
  case setChannel => simp [commandOf, frameSetChannel, split16]
  case setCrane => simp [commandOf, frameSetCrane, split16]
  case tableEnd => simp [commandOf, split16]
  case setZone => simp [commandOf, frameSetZone, split16]
  case setWeigh => simp [commandOf, frameSetWeigh, split16]
  case setPayload => simp [commandOf, split24]
  case tallyAdjust => simp [commandOf, split24]
  case span => simp [commandOf, split16]
  case setSupervision => simp [commandOf, split16]
  case setEvents => simp [commandOf, split16]
  all_goals rfl

/-- The values of a request of the list have the length that its code requires. -/
theorem requestLength_requestOf {i : Instr} {f : RequestFrame} (hf : requestOf i = some f) (hw : i.wf = true)
    (hlisted : f.code.toNat ∈ requestCodes) : requestLength f.code.toNat = some f.values.length := by
  cases i <;> simp only [requestOf, Option.some.injEq, reduceCtorEq] at hf <;> subst hf
  case unknownRequest tag code values =>
    have := Laws.RequestLength.unknownRequest tag code values hw _ rfl
    exact this.resolve_right fun hnone => (requestLength_none_iff _).1 hnone hlisted
  case tableWrite tag row cells =>
    rw [frameTableWrite_values_length tag row (by simpa [Instr.wf] using hw)]
    rfl
  case tallySet tag weights =>
    have hlength : weights.length = 12 := by simpa [Instr.wf] using hw
    simp [requestLength, Laws.splitWeights_length, hlength]
  all_goals rfl

/-- Settles O55. -/
theorem requestFramesSpellTheirCommands : Obligations.RequestFramesSpellTheirCommands :=
  fun _ _ hf hw hlisted => ⟨commandOf_requestOf hf hw hlisted, requestLength_requestOf hf hw hlisted⟩

/-! ### A request taken at its arrival (R186) -/

/-- What a well-formed request becomes when it is taken: its block's answer in the slot. -/
theorem takeRequest_requestOf {i : Instr} {f : RequestFrame} (hf : requestOf i = some f) (hw : i.wf = true) (s : State) :
    takeRequest f s = (answer i s).state.withReply
      ⟨f.tag, f.code, (answer i s).status, (answer i s).results, (answer i s).carried, (answer i s).after⟩ := by
  by_cases hlisted : f.code.toNat ∈ requestCodes
  · exact takeRequest_of_command (requestLength_requestOf hf hw hlisted) rfl (commandOf_requestOf hf hw hlisted) s
  · have hi := (listed_or_unknown hf).resolve_left hlisted
    subst hi
    exact takeRequest_of_unknown ((requestLength_none_iff _).2 hlisted) s

/-- A well-formed request that finds slot and buffer empty is answered at once. -/
theorem exec_request {i : Instr} {f : RequestFrame} (hf : requestOf i = some f) (hw : i.wf = true) {s : State} (hs : s.linkReady) :
    exec i s = .next ((answer i s).state.withReply
      ⟨f.tag, f.code, (answer i s).status, (answer i s).results, (answer i s).carried, (answer i s).after⟩) := by
  rw [exec_of_requestOf hf, offer_of_linkReady hs, takeRequest_requestOf hf hw]

/-! ### The receive buffer (R185, R186) -/

/-- An answer touches of the link port KEEP alone (R189). -/
theorem answer_link (i : Instr) (s : State) : { (answer i s).state.link with keep := false } = { s.link with keep := false } := by
  refine answer_field (codes := []) (field := fun t => { t.link with keep := false }) ?_ (fun ⟨_, _, _, hlink, _⟩ _ => ?_) s
  · cases h : requestOf i <;> simp [avoids, h]
  · exact congrArg (fun l : LinkPort => { l with keep := false }) hlink

theorem answer_buffer (i : Instr) (s : State) : (answer i s).state.link.buffer = s.link.buffer := by
  have h := congrArg LinkPort.buffer (answer_link i s)
  exact h

/-- A request that is taken leaves those behind it in the buffer. -/
theorem takeRequest_buffer (f : RequestFrame) (s : State) : (takeRequest f s).link.buffer = s.link.buffer := by
  show (answerFrame f s).state.link.buffer = s.link.buffer
  unfold answerFrame
  split
  · rfl
  · split
    · rfl
    · split
      · next i _ => exact answer_buffer i s
      · rfl

/-- A request offered to an empty slot with others waiting is offered after the oldest of them is taken. -/
theorem offer_of_waiting {s : State} {g : RequestFrame} {rest : List RequestFrame} (hslot : s.link.slot = none)
    (hbuffer : s.link.buffer = g :: rest) (f : RequestFrame) : offer f s = offer f (takeNext s) := by
  have htaken := takeRequest_slot g { s with link := { s.link with buffer := rest } }
  rw [← takeNext_of_buffer hslot hbuffer] at htaken
  unfold offer
  rw [takeNext_of_slot htaken]

/-- Settles O49. -/
theorem requestsWaitAndAreTakenInOrder : Obligations.RequestsWaitAndAreTakenInOrder := by
  refine ⟨fun i f r s hf hslot => ⟨fun hroom => ?joins, fun hfull => ?overflows⟩, fun i f g rest s hf hslot hbuffer => ?older,
    fun f rest s hslot hbuffer => ?taken, fun cause s => by rw [linkReset_link]; rfl, rfl, fun i f s hf hw hs => exec_request hf hw hs⟩
  case joins =>
    rw [exec_of_requestOf hf, offer_of_slot hslot, join, if_pos hroom]
  case overflows =>
    rw [exec_of_requestOf hf, offer_of_slot hslot, join, if_neg (not_lt.2 hfull)]
  case older =>
    rw [exec_of_requestOf hf, exec_of_requestOf hf, offer_of_waiting hslot hbuffer]
  case taken =>
    rw [takeNext_of_buffer hslot hbuffer]
    exact ⟨rfl, takeRequest_buffer f _, by rw [takeRequest_slot]; exact nofun⟩

/-! ### The answers of the link port (R189 to R192, R196) -/

/-- A line speed and a KEEP that name members of their lists are accepted (R189). -/
theorem answerSetLink_ok {speed keep : Byte} {v : Fin 4} {b : Bool} (hv : speed.toNat = v.val) (hb : keep = boolByte b) (s : State) :
    answerSetLink speed keep s = ⟨{ s with link := { s.link with keep := b } }, .ok, [speed, keep], 0, .speed v⟩ := by
  subst hb
  unfold answerSetLink
  rw [finOf_some v hv]
  cases b <;> rfl

theorem answerSetLink_range {speed keep : Byte} (h : 4 ≤ speed.toNat ∨ 2 ≤ keep.toNat) (s : State) :
    answerSetLink speed keep s = .refuse .range s [] := by
  unfold answerSetLink
  by_cases hspeed : 4 ≤ speed.toNat
  · rw [finOf_none hspeed]
  · have hkeep : 1 < keep.toNat := h.resolve_left hspeed
    rw [finOf_some ⟨speed.toNat, not_le.1 hspeed⟩ rfl]
    exact if_pos hkeep

/-- Settles O48: the answers of the link port, and the two answers that reach no block. -/
theorem linkRequestsOutcome : Obligations.LinkRequestsOutcome := by
  intro tag s hs
  refine ⟨fun speed keep => ⟨fun hbad => ?range, fun v b hv hb => ?accepted⟩, exec_request (i := .reset tag) rfl rfl hs,
    fun code values hcode => ?unknown, fun code values n hlength hvalues => takeRequest_of_length hlength hvalues s⟩
  case range =>
    have hexec := exec_request (i := .setLink tag speed keep) rfl rfl hs
    rwa [show answer (.setLink tag speed keep) s = _ from answerSetLink_range hbad s] at hexec
  case accepted =>
    have hexec := exec_request (i := .setLink tag speed keep) rfl rfl hs
    rwa [show answer (.setLink tag speed keep) s = _ from answerSetLink_ok hv hb s] at hexec
  case unknown =>
    rw [exec_of_requestOf (i := .unknownRequest tag code values) rfl, offer_of_linkReady hs,
      takeRequest_of_unknown ((requestLength_none_iff _).2 hcode)]

end Sys2Proof.Machine
end

section
/-! The requests of the scanner and its timer (R5, R7, R15 to R17): what each answers in each case. -/
namespace Sys2Proof.Machine

/-! ### Answers and operands -/

/-- A well-formed request that finds slot and buffer empty is replied to with its block's answer (R186). -/
theorem exec_replied {i : Instr} {f : RequestFrame} {s t : State} {status : Status} {results : List Byte} (hf : requestOf i = some f)
    (hw : i.wf = true) (hs : s.linkReady) (ha : answer i s = ⟨t, status, results, 0, .nothing⟩) :
    exec i s = .next (t.replied f.tag f.code status results) := by
  rw [exec_request hf hw hs, ha]
  rfl

/-- A byte that names neither of two members is above 1. -/
theorem ofByte_eq_none_iff {α : Type} (b : Byte) (x y : α) : (if b = 0 then some x else if b = 1 then some y else none) = none ↔ 1 < b.toNat := by
  split
  · next h => subst h; simp
  · split
    · next h => subst h; simp
    · next h0 h1 =>
      simp only [true_iff]
      bv_omega

/-- A 1-byte field carries a byte as it is. -/
@[simp] theorem be_one_toNat (b : Byte) : be 1 (b.toNat : Int) = [b] := by
  simp [be]

/-! ### SCAN_TIMER_EXPIRY (R5) -/

theorem timerDue_iff (now : Time) (c : Scanner) : c.timerDue now = true ↔ c.mode = .auto ∧ c.timer = some now := by
  simp [Scanner.timerDue]

/-- Settles O5: the expiry with no scan in progress, with one, and any other moment. -/
theorem scanTimerExpiryStartsAScan : Obligations.ScanTimerExpiryStartsAScan := by
  refine fun s => ⟨fun hdue hnone => ?starts, fun hdue hrun => ?waits, fun hnot => ?idle⟩
  all_goals
    show Host.Outcome.next (scanTimerExpiry s) = _
    unfold scanTimerExpiry
  case starts =>
    rw [if_pos ((timerDue_iff _ _).2 hdue), Scanner.expire, if_pos (by rw [hnone]; rfl)]
    rfl
  case waits =>
    rw [if_pos ((timerDue_iff _ _).2 hdue), Scanner.expire, if_neg (by simpa using hrun)]
  case idle =>
    rw [if_neg (mt (timerDue_iff _ _).1 hnot)]

/-! ### SET_SCAN (R7, R15) -/

theorem scanModeOf_eq_none_iff (b : Byte) : scanModeOf b = none ↔ 1 < b.toNat := ofByte_eq_none_iff b _ _

theorem scanModeOf_code (m : ScanMode) : scanModeOf m.code = some m := by cases m <;> rfl

section
variable {mode period : Byte} {s : State}

/-- A value out of its range, or the budget (R15, checks 2 and 3). -/
theorem setScanStatus_range (hslot : s.op.slot = none)
    (hbad : (1 < mode.toNat ∨ period.toNat < 5 ∨ 100 < period.toNat) ∨ budgetHolds s.scanner.levels period.toNat = false) :
    setScanStatus mode period s = .range := by
  unfold setScanStatus
  rw [if_neg (by simp [hslot])]
  split
  · rfl
  · next hrange =>
    simp only [Bool.or_eq_true, decide_eq_true_eq, Option.isNone_iff_eq_none, scanModeOf_eq_none_iff, or_assoc] at hrange
    rw [if_pos (by simp [hbad.resolve_left hrange])]

/-- Past the checks of the values only a lift in progress stands in the way of MANUAL (R15, check 4). -/
theorem setScanStatus_of_values (hslot : s.op.slot = none) (hvalues : ¬(1 < mode.toNat ∨ period.toNat < 5 ∨ 100 < period.toNat))
    (hbudget : ¬budgetHolds s.scanner.levels period.toNat = false) : setScanStatus mode period s =
      if scanModeOf mode = some .manual && s.scanner.mode = .auto && s.tracker.state != .empty then .busy else .ok := by
  unfold setScanStatus
  rw [if_neg (by simp [hslot])]
  rw [if_neg (by simpa only [Bool.or_eq_true, decide_eq_true_eq, Option.isNone_iff_eq_none, scanModeOf_eq_none_iff, or_assoc] using hvalues)]
  rw [if_neg (by simpa using hbudget)]

theorem answerSetScan_refused {status : Status} (h : setScanStatus mode period s = status) (hne : status ≠ .ok) :
    answerSetScan mode period s = .refuse status s (scanSettings s) := by
  unfold answerSetScan
  rw [h]
  cases status <;> first | rfl | exact absurd rfl hne

theorem answerSetScan_accepted {m : ScanMode} (h : setScanStatus mode period s = .ok) (hm : mode = m.code) :
    answerSetScan mode period s = .ok (applySetScan m period.toNat s) (scanSettings (applySetScan m period.toNat s)) := by
  subst hm
  unfold answerSetScan
  rw [h, scanModeOf_code]

/-- The settings that a reply carries after an accepted SET_SCAN are those received. -/
theorem scanSettings_applySetScan (m : ScanMode) (period : Byte) (s : State) :
    scanSettings (applySetScan m period.toNat s) = [m.code, period] := by
  have hfields : (applySetScan m period.toNat s).scanner.mode = m ∧ (applySetScan m period.toNat s).scanner.period = period.toNat := by
    unfold applySetScan
    split
    · exact ⟨rfl, rfl⟩
    · unfold leaveManual
      dsimp only [State.setModeRow_scanner, State.setPeriod]
      split <;> exact ⟨rfl, rfl⟩
    · next hm => exact ⟨hm, rfl⟩
    · next hm => exact ⟨hm, rfl⟩
  simp [scanSettings, hfields]

end

/-- Settles O8: the checks in their order, then the three effects of an acceptance. -/
theorem setScanOutcome : Obligations.SetScanOutcome := by
  intro tag mode period s hs badValue overBudget c rows permit
  have reply {t : State} {status : Status} {results : List Byte} (ha : answerSetScan mode period s = ⟨t, status, results, 0, .nothing⟩) :
      exec (.setScan tag mode period) s = .next (t.replied tag 0x10 status results) :=
    exec_replied (i := .setScan tag mode period) rfl rfl hs ha
  have accept {m : ScanMode} {t : State} (h : setScanStatus mode period s = .ok) (hm : mode = m.code)
      (ht : applySetScan m period.toNat s = t) : exec (.setScan tag mode period) s = .next (t.replied tag 0x10 .ok [mode, period]) := by
    have ha := answerSetScan_accepted h hm
    rw [scanSettings_applySetScan, ← hm, ht] at ha
    exact reply ha
  refine ⟨fun hslot => ?busy, fun hslot hbad => ?range, fun hslot hv hb hmode hauto hlift => ?lift, fun hslot hv hb hmode => ?same,
    fun hslot hv hb hmode hauto hempty => ?manual, fun hslot hv hb hmode hmanual => ?auto⟩
  case busy =>
    have hstatus : setScanStatus mode period s = .busy := if_pos (by simpa [Option.isSome_iff_ne_none] using hslot)
    exact reply (answerSetScan_refused hstatus (by decide))
  case range => exact reply (answerSetScan_refused (setScanStatus_range hslot hbad) (by decide))
  case lift =>
    have hstatus : setScanStatus mode period s = .busy := by
      rw [setScanStatus_of_values hslot hv hb, if_pos (by simp [hmode, scanModeOf, hauto, hlift])]
    exact reply (answerSetScan_refused hstatus (by decide))
  case same =>
    have hstatus : setScanStatus mode period s = .ok := by
      rw [setScanStatus_of_values hslot hv hb, hmode, scanModeOf_code, if_neg]
      cases s.scanner.mode <;> simp
    refine accept hstatus hmode ?_
    unfold applySetScan
    cases s.scanner.mode <;> rfl
  case manual =>
    have hstatus : setScanStatus mode period s = .ok := by
      rw [setScanStatus_of_values hslot hv hb, if_neg (by simp [hempty])]
    refine accept (m := .manual) hstatus hmode ?_
    unfold applySetScan
    rw [hauto]
    rfl
  case auto =>
    have hstatus : setScanStatus mode period s = .ok := by
      rw [setScanStatus_of_values hslot hv hb, if_neg (by simp [hmanual])]
    refine accept (m := .auto) hstatus hmode ?_
    unfold applySetScan
    rw [hmanual]
    by_cases hrun : s.scanner.running = none
    · rw [if_pos hrun]
      simp only [leaveManual, State.setPeriod, hrun, Option.isNone_none]
      rfl
    · rw [if_neg hrun]
      have hnone : s.scanner.running.isNone = false := Option.isNone_eq_false_iff.2 (Option.isSome_iff_ne_none.2 hrun)
      simp only [leaveManual, State.setPeriod, hnone]
      rfl

/-! ### SET_CHANNEL (R16) -/

/-- Settles O9: an index that names no channel or no level, then bounds and budget together. -/
theorem setChannelOutcome : Obligations.SetChannelOutcome := by
  intro tag channel level lower upper s hs
  have reply {t : State} {status : Status} {results : List Byte}
      (ha : answerSetChannel channel level lower upper s = ⟨t, status, results, 0, .nothing⟩) :
      exec (.setChannel tag channel level lower upper) s = .next (t.replied tag 0x11 status results) :=
    exec_replied (i := .setChannel tag channel level lower upper) rfl rfl hs ha
  have range (hslot : s.op.slot = none) (h : setChannelTarget channel level lower upper s = none) :
      exec (.setChannel tag channel level lower upper) s = .next (s.replied tag 0x11 .range (channelReply channel s)) := by
    refine reply ?_
    unfold answerSetChannel
    rw [if_neg (by simp [hslot]), h]
    rfl
  refine ⟨fun hslot => ?busy, fun ch lv hslot hch hlv => ⟨fun hfits => ?written, fun hbad => ?refused⟩, fun hslot hbad => ?index⟩
  case busy =>
    refine reply ?_
    exact if_pos (by simpa [Option.isSome_iff_ne_none] using hslot)
  case written =>
    refine reply ?_
    unfold answerSetChannel setChannelTarget
    rw [if_neg (by simp [hslot]), finOf_some ch hch, finOf_some lv hlv]
    dsimp only
    rw [if_pos (Bool.and_eq_true_iff.2 hfits)]
    rfl
  case refused =>
    have htarget : setChannelTarget channel level lower upper s = none := by
      unfold setChannelTarget
      rw [finOf_some ch hch, finOf_some lv hlv]
      exact if_neg (mt Bool.and_eq_true_iff.1 hbad)
    have hreply : channelReply channel s = channelBytes s.scanner.channels[ch] := by
      unfold channelReply
      rw [finOf_some ch hch]
    rw [range hslot htarget, hreply]
  case index =>
    refine range hslot ?_
    unfold setChannelTarget
    rcases hbad with hch | hlv
    · rw [finOf_none hch]
    · rw [finOf_none hlv]
      split <;> first | rfl | contradiction

/-! ### SCAN_ONCE (R17) -/

/-- Settles O10. -/
theorem scanOnceOutcome : Obligations.ScanOnceOutcome := by
  intro tag s hs
  have reply {t : State} {status : Status} {results : List Byte} (ha : answerScanOnce s = ⟨t, status, results, 0, .nothing⟩) :
      exec (.scanOnce tag) s = .next (t.replied tag 0x12 status results) :=
    exec_replied (i := .scanOnce tag) rfl rfl hs ha
  refine ⟨fun o hslot => reply ?busy, fun hslot hauto => reply ?state, fun hslot hmanual => reply ?accepted⟩
  all_goals
    unfold answerScanOnce
    rw [hslot]
  case busy => rfl
  case state =>
    rw [hauto]
    rfl
  case accepted =>
    rw [hmanual]
    by_cases hrun : s.scanner.running = none
    · rw [if_pos hrun]
      simp only [hrun, Option.isNone_none]
      rfl
    · rw [if_neg hrun]
      have hnone : s.scanner.running.isNone = false := Option.isNone_eq_false_iff.2 (Option.isSome_iff_ne_none.2 hrun)
      simp only [hnone]
      rfl

end Sys2Proof.Machine
end

section
/-! The requests of pose solver, geometry table and zone table (R22, R31, R33, R47 to R49): what each answers in each case. -/
namespace Sys2Proof.Machine

/-! ### SET_CRANE (R22) -/

theorem craneOk_iff (c : Crane) : craneOk c = true ↔ 1000 ≤ c.lb ∧ c.lb ≤ 8000 ∧ 1000 ≤ c.ls ∧ c.ls ≤ 8000 ∧ c.h ≤ 4000 ∧ 1 ≤ c.ap
    ∧ c.ap ≤ 2000 ∧ 1 ≤ c.ar ∧ c.ar ≤ 2000 ∧ c.ar < c.ap := by
  simp only [craneOk, Bool.and_eq_true, decide_eq_true_eq, and_assoc]

/-- Settles O14: the two checks, then the constants written. -/
theorem setCraneOutcome : Obligations.SetCraneOutcome := by
  intro tag lb ls h ap ar s hs inUse good c
  have reply {t : State} {status : Status} {results : List Byte} (ha : answerSetCrane lb ls h ap ar s = ⟨t, status, results, 0, .nothing⟩) :
      exec (.setCrane tag lb ls h ap ar) s = .next (t.replied tag 0x18 status results) :=
    exec_replied (i := .setCrane tag lb ls h ap ar) rfl rfl hs ha
  refine ⟨fun huse => reply ?busy, fun hfree hbad => reply ?range, fun hfree hgood => reply ?written⟩
  case busy => exact if_pos ((inUse_iff _).2 huse)
  case range =>
    unfold answerSetCrane
    have hok : (!craneOk c) = true := by simpa using mt (craneOk_iff c).1 hbad
    rw [if_neg (mt (inUse_iff _).1 hfree)]
    exact if_pos hok
  case written =>
    unfold answerSetCrane
    have hok : ¬(!craneOk c) = true := by simpa using (craneOk_iff c).2 hgood
    rw [if_neg (mt (inUse_iff _).1 hfree)]
    exact if_neg hok

/-! ### TABLE_BEGIN and TABLE_END (R31, R33, R36) -/

/-- What refuses a TABLE_BEGIN (R31). -/
theorem tableBegin_busy_iff (s : State) : (s.weigh.window.inUse || calibrationRuns s.op.slot) = true
    ↔ (s.weigh.window.state = .opened ∨ s.weigh.window.state = .suspended) ∨ ∃ o, s.op.slot = some o ∧ o.kind ≠ .scanOnce := by
  rw [Bool.or_eq_true, inUse_iff, calibrationRuns_iff]

/-- Settles O15. -/
theorem tableBeginOutcome : Obligations.TableBeginOutcome := by
  intro tag s hs inUse calibrating rows t
  have reply {u : State} {status : Status} {results : List Byte} (ha : answerTableBegin s = ⟨u, status, results, 0, .nothing⟩) :
      exec (.tableBegin tag) s = .next (u.replied tag 0x20 status results) :=
    exec_replied (i := .tableBegin tag) rfl rfl hs ha
  refine ⟨fun hbusy => reply ?busy, fun hfree hstate => reply ?begun, fun hfree hvalid => reply ?left⟩
  case busy => exact if_pos ((tableBegin_busy_iff s).2 hbusy)
  case begun =>
    unfold answerTableBegin
    rw [if_neg (mt (tableBegin_busy_iff s).1 hfree)]
    dsimp only
    rw [if_neg hstate]
    rfl
  case left =>
    unfold answerTableBegin
    rw [if_neg (mt (tableBegin_busy_iff s).1 hfree)]
    dsimp only
    rw [if_pos hvalid]
    rfl

/-- Settles O17: outside LOADING, then the three outcomes of R33. -/
theorem tableEndOutcome : Obligations.TableEndOutcome := by
  intro tag check s hs rows emptied
  have reply {u : State} {status : Status} {results : List Byte} (ha : answerTableEnd check s = ⟨u, status, results, 0, .nothing⟩) :
      exec (.tableEnd tag check) s = .next (u.replied tag 0x22 status results) :=
    exec_replied (i := .tableEnd tag check) rfl rfl hs ha
  have loading (hstate : s.table.state = .loading) {o : TableOutcome} (ho : tableOutcome check s.table = o) :
      answerTableEnd check s =
        if o = .valid then .ok ({ s with table := { s.table with state := .valid } }.setTableRow false) [o.code]
        else .ok (emptied.raise (.tableInvalid o s.table.rowCount check (if o = .check then crc16 s.table.bytes else 0) s.time)) [o.code] := by
    unfold answerTableEnd
    rw [if_neg (not_not_intro hstate)]
    subst ho
    rfl
  refine ⟨fun hstate => reply ?state, fun hstate hrows => reply ?incomplete, fun hstate hrows hcheck => reply ?check,
    fun hstate hrows hcheck => reply ?valid⟩
  case state => exact if_pos hstate
  case incomplete => exact loading hstate (o := .incomplete) (if_pos hrows)
  case check =>
    refine loading hstate (o := .check) ?_
    unfold tableOutcome
    rw [if_neg (not_lt.2 hrows)]
    exact if_neg hcheck
  case valid =>
    refine loading hstate (o := .valid) ?_
    unfold tableOutcome
    rw [if_neg (not_lt.2 hrows)]
    exact if_pos hcheck

/-! ### SET_ZONE and CLEAR_ZONE (R47 to R49) -/

/-- Checks 3 to 5 of R47, each bound with its range and its order. -/
theorem zoneBoundsOk_iff (z : Zone) : zoneBoundsOk z = true ↔ z.sectorStart ≤ 3599 ∧ z.sectorEnd ≤ 3599
    ∧ -19999 ≤ z.reachMin ∧ z.reachMin ≤ z.reachMax ∧ z.reachMax ≤ 19999
    ∧ -19999 ≤ z.heightMin ∧ z.heightMin ≤ z.heightMax ∧ z.heightMax ≤ 23999 := by
  simp only [zoneBoundsOk, Bool.and_eq_true, decide_eq_true_eq]
  omega

/-- Contents of a known kind are accepted when checks 3 to 5 pass, and kept as carried. -/
theorem zoneOf_of_kind {a b c d e f : BitVec 16} {kind fns : Byte} {k : ZoneKind} (hk : zoneKindOf kind fns = some k) :
    zoneOf a b c d e f kind fns =
      if a.toNat ≤ 3599 ∧ b.toNat ≤ 3599 ∧ -19999 ≤ c.toInt ∧ c.toInt ≤ d.toInt ∧ d.toInt ≤ 19999
        ∧ -19999 ≤ e.toInt ∧ e.toInt ≤ f.toInt ∧ f.toInt ≤ 23999
      then some ⟨a.toNat, b.toNat, c.toInt, d.toInt, e.toInt, f.toInt, k⟩ else none := by
  unfold zoneOf
  rw [hk, Option.bind_some]
  simp only [zoneBoundsOk_iff]

/-- SLOW and HOLD name at least one function, and none beyond the six (R47, check 6). -/
theorem zoneKindOf_of_named {kind fns : Byte} (hkind : 2 ≤ kind.toNat) (hnamed : 1 ≤ fns.toNat ∧ fns.toNat ≤ 63) :
    zoneKindOf kind fns = if kind = 2 then some (.slow (fns.setWidth 6)) else if kind = 3 then some (.hold (fns.setWidth 6)) else none := by
  have hfns : ¬(decide (fns = 0) || decide (63 < fns.toNat)) = true := by
    simp only [Bool.or_eq_true, decide_eq_true_eq, not_or, not_lt]
    exact ⟨fun h0 => by simp [h0] at hnamed, hnamed.2⟩
  unfold zoneKindOf
  rw [if_neg (fun h => by simp [h] at hkind), if_neg (fun h => by simp [h] at hkind), if_neg hfns]

theorem zoneKindOf_eq_none {kind fns : Byte} (h : 4 ≤ kind.toNat ∨ (2 ≤ kind.toNat ∧ ¬(1 ≤ fns.toNat ∧ fns.toNat ≤ 63))) :
    zoneKindOf kind fns = none := by
  have hkind : 2 ≤ kind.toNat := by omega
  by_cases hnamed : 1 ≤ fns.toNat ∧ fns.toNat ≤ 63
  · have hfour : 4 ≤ kind.toNat := h.resolve_right fun hboth => hboth.2 hnamed
    rw [zoneKindOf_of_named hkind hnamed, if_neg (fun h => by simp [h] at hfour), if_neg (fun h => by simp [h] at hfour)]
  · have hfns : (decide (fns = 0) || decide (63 < fns.toNat)) = true := by
      simp only [Bool.or_eq_true, decide_eq_true_eq]
      bv_omega
    unfold zoneKindOf
    rw [if_neg (fun h => by simp [h] at hkind), if_neg (fun h => by simp [h] at hkind), if_pos hfns]

/-- The contents that SET_ZONE accepts: the kinds of R38 with their function sets, within the bounds of R47. -/
theorem zoneOf_cases (a b c d e f : BitVec 16) (kind fns : Byte) :
    let inRange := a.toNat ≤ 3599 ∧ b.toNat ≤ 3599 ∧ -19999 ≤ c.toInt ∧ c.toInt ≤ d.toInt ∧ d.toInt ≤ 19999
      ∧ -19999 ≤ e.toInt ∧ e.toInt ≤ f.toInt ∧ f.toInt ≤ 23999
    let zone := fun k : ZoneKind => some (⟨a.toNat, b.toNat, c.toInt, d.toInt, e.toInt, f.toInt, k⟩ : Zone)
    let named := 1 ≤ fns.toNat ∧ fns.toNat ≤ 63
    (inRange → kind = 0 → zoneOf a b c d e f kind fns = zone .weigh)
    ∧ (inRange → kind = 1 → zoneOf a b c d e f kind fns = zone .bunk)
    ∧ (inRange → kind = 2 → named → zoneOf a b c d e f kind fns = zone (.slow (fns.setWidth 6)))
    ∧ (inRange → kind = 3 → named → zoneOf a b c d e f kind fns = zone (.hold (fns.setWidth 6)))
    ∧ (¬inRange ∨ 4 ≤ kind.toNat ∨ (2 ≤ kind.toNat ∧ ¬named) → zoneOf a b c d e f kind fns = none) := by
  intro inRange zone named
  have accepted {k : ZoneKind} (hk : zoneKindOf kind fns = some k) (hrange : inRange) : zoneOf a b c d e f kind fns = zone k := by
    rw [zoneOf_of_kind hk]
    exact if_pos hrange
  refine ⟨fun hr hk => accepted (by rw [hk]; rfl) hr, fun hr hk => accepted (by rw [hk]; rfl) hr,
    fun hr hk hn => accepted ?slow hr, fun hr hk hn => accepted ?hold hr, fun hbad => ?none⟩
  case slow =>
    rw [zoneKindOf_of_named (by simp [hk]) hn]
    exact if_pos hk
  case hold =>
    rw [zoneKindOf_of_named (by simp [hk]) hn, if_neg (by simp [hk])]
    exact if_pos hk
  case none =>
    cases hk : zoneKindOf kind fns with
    | none =>
      unfold zoneOf
      rw [hk]
      rfl
    | some k =>
      have hrange : ¬inRange := hbad.resolve_right fun h => by
        rw [zoneKindOf_eq_none h] at hk
        cases hk
      rw [zoneOf_of_kind hk]
      exact if_neg hrange

/-- Settles O20: the two requests, and the contents that SET_ZONE accepts. -/
theorem zoneRequestsOutcome : Obligations.ZoneRequestsOutcome := by
  refine ⟨?set, fun tag index s hs => ?clear, zoneOf_cases⟩
  case set =>
    intro tag index a b c d e f kind fns s hs cmd
    have reply {t : State} {status : Status} {results : List Byte}
        (ha : answerSetZone index a b c d e f kind fns s = ⟨t, status, results, 0, .nothing⟩) :
        exec cmd s = .next (t.replied tag 0x28 status results) :=
      exec_replied (i := cmd) rfl rfl hs ha
    refine ⟨fun hindex => reply ?_, fun i hi => ⟨fun hbad => reply ?_, fun z hz => reply ?_⟩⟩
    all_goals unfold answerSetZone
    · rw [finOf_none hindex]
      rfl
    · rw [finOf_some i hi, hbad]
      rfl
    · rw [finOf_some i hi, hz]
      rfl
  case clear =>
    have reply {t : State} {status : Status} {results : List Byte}
        (ha : answerClearZone index s = ⟨t, status, results, 0, .nothing⟩) :
        exec (.clearZone tag index) s = .next (t.replied tag 0x29 status results) :=
      exec_replied (i := .clearZone tag index) rfl rfl hs ha
    refine ⟨fun hindex => reply ?_, fun i hi => ⟨fun hfree => reply ?_, fun hused => reply ?_⟩⟩
    all_goals unfold answerClearZone
    · rw [finOf_none hindex]
      rfl
    · rw [finOf_some i hi]
      have hnone : s.zones.entries[i].contents.isSome = false := by simp only [hfree, Option.isSome_none]
      have hsame : s.zones.entries.set i s.zones.entries[i] = s.zones.entries := Vector.set_getElem_self i.isLt
      simp only [hnone, Bool.false_eq_true, if_false, hsame]
      rfl
    · rw [finOf_some i hi]
      have hsome : s.zones.entries[i].contents.isSome = true := Option.isSome_iff_ne_none.2 hused
      dsimp only
      rw [hsome]
      rfl

end Sys2Proof.Machine
end

section
/-! The requests of lift tracker and weigh unit (R70, R72, R78, R97, R98): what each answers in each case. -/
namespace Sys2Proof.Machine

/-! ### Operands -/

/-- The sorts of a request are 1 to 12. -/
theorem sortOf_none {b : Byte} (h : b.toNat < 1 ∨ 12 < b.toNat) : sortOf b = none := by
  unfold sortOf
  split
  · rfl
  · next h0 => exact finOf_none (by omega)

theorem sortOf_some {b : Byte} {k : Fin 12} (h : b.toNat = k.val + 1) : sortOf b = some k := by
  unfold sortOf
  rw [if_neg (by omega)]
  exact finOf_some k (by omega)

/-! ### SET_SORT and MARK (R70, R72) -/

/-- The flags and the sort of a lift do not show in the state's code. -/
@[simp] theorem mapLift_code (f : Lift → Lift) (k : TrackerState) : (k.mapLift f).code = k.code := by cases k <;> rfl

/-- SET_SORT, by the value that says whether the lift in progress takes the sort too. -/
theorem setSort_outcome (tag sort apply : Byte) (s : State) (hs : s.linkReady) :
    let reply := fun (current : Fin 12) (applied : Option Time) =>
      [sortByte current, s.tracker.state.code, boolByte applied.isSome] ++ optBytes timeBytes applied
    (sort.toNat < 1 ∨ 12 < sort.toNat ∨ 1 < apply.toNat →
      exec (.setSort tag sort apply) s = .next (s.replied tag 0x30 .range (reply s.tracker.sort none)))
    ∧ ∀ k : Fin 12, sort.toNat = k.val + 1 →
        (apply = 0 → exec (.setSort tag sort apply) s =
          .next ({ s with tracker := { s.tracker with sort := k } }.replied tag 0x30 .ok (reply k none)))
        ∧ (apply = 1 → exec (.setSort tag sort apply) s = .next ({ s with
            tracker := ⟨s.tracker.state.mapLift (fun l => { l with sort := k }), k⟩ }.replied tag 0x30 .ok
              (reply k (s.tracker.state.lift.map Lift.gripTime)))) := by
  intro current
  have reply {t : State} {status : Status} {results : List Byte} (ha : answerSetSort sort apply s = ⟨t, status, results, 0, .nothing⟩) :
      exec (.setSort tag sort apply) s = .next (t.replied tag 0x30 status results) :=
    exec_replied (i := .setSort tag sort apply) rfl rfl hs ha
  refine ⟨fun hbad => reply ?range, fun k hk => ⟨fun happly => reply ?written, fun happly => reply ?applied⟩⟩
  all_goals unfold answerSetSort
  case range =>
    cases hsort : sortOf sort with
    | none => rfl
    | some k =>
      have happly : 1 < apply.toNat := by
        rcases hbad with h | h | h
        · rw [sortOf_none (.inl h)] at hsort
          cases hsort
        · rw [sortOf_none (.inr h)] at hsort
          cases hsort
        · exact h
      exact if_pos happly
  case written =>
    subst happly
    rw [sortOf_some hk]
    rfl
  case applied =>
    subst happly
    rw [sortOf_some hk]
    dsimp only
    rw [if_neg (by decide), if_pos rfl]
    simp only [Answer.ok, setSortReply, mapLift_code]
    rfl

theorem mark_outcome (tag : Byte) (s : State) (hs : s.linkReady) :
    let marked := fun l : Lift => [1] ++ timeBytes l.gripTime ++ [sortByte l.sort] ++ be 1 l.regrips ++ [boolByte l.marked]
    (s.tracker.state.lift = none → exec (.mark tag) s = .next (s.replied tag 0x31 .state [s.tracker.state.code, 0]))
    ∧ (∀ l, s.tracker.state = .gripped l → exec (.mark tag) s = .next ({ s with
        tracker := { s.tracker with state := .gripped { l with marked := true } } }.replied tag 0x31 .ok (1 :: marked l)))
    ∧ (∀ l rel e, s.tracker.state = .releaseHold l rel e → exec (.mark tag) s = .next ({ s with
        tracker := { s.tracker with state := .releaseHold { l with marked := true } rel e } }.replied tag 0x31 .ok (2 :: marked l))) := by
  intro marked
  have reply {t : State} {status : Status} {results : List Byte} (ha : answerMark s = ⟨t, status, results, 0, .nothing⟩) :
      exec (.mark tag) s = .next (t.replied tag 0x31 status results) :=
    exec_replied (i := .mark tag) rfl rfl hs ha
  refine ⟨fun hnone => reply ?none, fun l hl => reply ?gripped, fun l rel e hl => reply ?released⟩
  all_goals unfold answerMark
  case none =>
    rw [hnone]
    rfl
  case gripped =>
    simp only [hl, TrackerState.lift, Tracker.markLift, TrackerState.mapLift]
    rfl
  case released =>
    simp only [hl, TrackerState.lift, Tracker.markLift, TrackerState.mapLift]
    rfl

/-- Settles O24. -/
theorem trackerRequestsOutcome : Obligations.TrackerRequestsOutcome := ⟨setSort_outcome, mark_outcome⟩

/-! ### SET_WEIGH (R78) -/

theorem weighParamsOk_iff (p : WeighParams) : weighParamsOk p = true ↔ 8 ≤ p.budget ∧ p.budget ≤ 64 ∧ 4 ≤ p.still ∧ p.still ≤ 16
    ∧ p.still ≤ p.budget ∧ 1 ≤ p.tolerance ∧ p.tolerance ≤ 500 ∧ 1 ≤ p.motion ∧ p.motion ≤ 2000 ∧ 100 ≤ p.grip ∧ p.grip ≤ 39999
    ∧ 100 ≤ p.release ∧ p.release ≤ 39999 ∧ p.release < p.grip ∧ p.regrip ≤ 3000 ∧ 800 ≤ p.trim ∧ p.trim ≤ 1250 ∧ p.tare ≤ 2000 := by
  simp only [weighParamsOk, Bool.and_eq_true, decide_eq_true_eq, and_assoc]

/-! ### WEIGH_FLUSH and WEIGH_DISCARD (R97, R98) -/

theorem isLift_iff (c : Context) : c.isLift = true ↔ ∃ x, c = .lift x := by
  cases c <;> simp [Context.isLift]

/-- A window that can be flushed or discarded. -/
theorem flushable_iff (w : Weigh) : w.flushable = true ↔ (∃ c, w.context = .lift c)
    ∧ (w.window.state = .opened ∨ w.window.state = .suspended ∨ w.window.state = .frozen) := by
  simp only [Weigh.flushable, Bool.and_eq_true, Bool.or_eq_true, beq_iff_eq, isLift_iff, or_assoc]

/-- The figures of a closed window of a lift are those of its result (R96). -/
theorem windowFigures_closed {w : Weigh} {c : LiftContext} {status : CloseStatus} (hc : w.context = .lift c)
    (hs : w.window.state = .closed status) :
    windowFigures w = be 1 w.result.count ++ be 2 w.result.spread ++ optBytes (fun x : Nat => be 3 x) w.result.weight := by
  simp only [windowFigures, hc, hs, Context.isLift, WindowState.status, Weigh.result, Window.closeStatus]

/-- Any other window shows its samples and no weight (log 29). -/
theorem windowFigures_open {w : Weigh} (h : ∀ c status, ¬(w.context = .lift c ∧ w.window.state = .closed status)) :
    windowFigures w = be 1 w.window.samples.length ++ be 2 (spreadGiven w.window.samples) ++ [0] := by
  unfold windowFigures
  split
  · next c hstatus hlift =>
    obtain ⟨x, hx⟩ := (isLift_iff _).1 hlift
    cases hw : w.window.state <;> rw [hw] at hstatus
    case closed => exact absurd ⟨hx, hw⟩ (h x _)
    all_goals cases hstatus
  · rfl

theorem setWeigh_outcome (tag budget still : Byte) (tolerance motion grip release regrip trim tare : BitVec 16) (s : State)
    (hs : s.linkReady) :
    let cmd := Instr.setWeigh tag budget still tolerance motion grip release regrip trim tare
    let p : WeighParams :=
      ⟨budget.toNat, still.toNat, tolerance.toNat, motion.toNat, grip.toNat, release.toNat, regrip.toNat, trim.toNat, tare.toNat⟩
    (calibrationRuns s.op.slot = true → exec cmd s = .next (s.replied tag 0x38 .busy (weighParamBytes s.weigh.params)))
    ∧ (¬calibrationRuns s.op.slot = true → ¬weighParamsOk p = true →
        exec cmd s = .next (s.replied tag 0x38 .range (weighParamBytes s.weigh.params)))
    ∧ (¬calibrationRuns s.op.slot = true → weighParamsOk p = true → exec cmd s =
        .next ({ s with weigh := { s.weigh with params := p } }.replied tag 0x38 .ok (weighParamBytes p))) := by
  intro cmd p
  have reply {t : State} {status : Status} {results : List Byte}
      (ha : answerSetWeigh budget still tolerance motion grip release regrip trim tare s = ⟨t, status, results, 0, .nothing⟩) :
      exec cmd s = .next (t.replied tag 0x38 status results) :=
    exec_replied (i := cmd) rfl rfl hs ha
  refine ⟨fun hbusy => reply (if_pos hbusy), fun hfree hbad => reply ?range, fun hfree hgood => reply ?written⟩
  all_goals
    unfold answerSetWeigh
    rw [if_neg hfree]
  case range => exact if_pos (show (!weighParamsOk p) = true by simpa using hbad)
  case written => exact if_neg (show ¬(!weighParamsOk p) = true by simpa using hgood)

/-- Settles O26. -/
theorem weighRequestsOutcome : Obligations.WeighRequestsOutcome := by
  refine ⟨?setWeigh, ?window⟩
  case setWeigh =>
    intro tag budget still tolerance motion grip release regrip trim tare s hs cmd calibrating good p
    have h := setWeigh_outcome tag budget still tolerance motion grip release regrip trim tare s hs
    simp only [calibrationRuns_iff, weighParamsOk_iff] at h
    exact h
  case window =>
    intro tag s hs w running taken
    have flush {t : State} {status : Status} {results : List Byte} (ha : answerWeighFlush s = ⟨t, status, results, 0, .nothing⟩) :
        exec (.weighFlush tag) s = .next (t.replied tag 0x3A status results) :=
      exec_replied (i := .weighFlush tag) rfl rfl hs ha
    have discard {t : State} {status : Status} {results : List Byte} (ha : answerWeighDiscard s = ⟨t, status, results, 0, .nothing⟩) :
        exec (.weighDiscard tag) s = .next (t.replied tag 0x3B status results) :=
      exec_replied (i := .weighDiscard tag) rfl rfl hs ha
    have refused (hnot : ¬running) : answerWeighFlush s = .refuse .state s (flushReply s.weigh.window.state s.weigh) :=
      if_neg (mt (flushable_iff _).1 hnot)
    refine ⟨fun c hc hstate => flush ?flushed, fun c status hc hstate => ?closed, fun hnot hopen => ?other,
      fun hrunning => discard ?discarded, fun hnot => discard (if_neg (mt (flushable_iff _).1 hnot))⟩
    case flushed =>
      unfold answerWeighFlush
      rw [if_pos ((flushable_iff _).2 ⟨⟨c, hc⟩, hstate⟩)]
      have hfigures := windowFigures_closed (w := { s.weigh with window := { s.weigh.window with state := .closed .flushed } })
        (status := .flushed) hc rfl
      dsimp only [flushReply]
      rw [hfigures]
      simp only [Answer.ok, Weigh.result, Window.closeStatus, windowResult, hc, Context.still]
      split <;> rfl
    case closed =>
      have hreply := flush (refused fun h => by
        obtain ⟨_, h | h | h⟩ := h <;> exact absurd (hstate.symm.trans h) (by simp))
      unfold flushReply at hreply
      rwa [windowFigures_closed hc hstate, show s.weigh.window.state = .closed status from hstate] at hreply
    case other =>
      have hreply := flush (refused hnot)
      unfold flushReply at hreply
      rw [windowFigures_open hopen] at hreply
      rw [hreply, ← List.append_assoc]
    case discarded =>
      unfold answerWeighDiscard
      dsimp only
      rw [if_pos ((flushable_iff _).2 hrunning)]
      rfl

end Sys2Proof.Machine
end

section
/-! The requests of the tally (R112 to R120): what each answers in each case, and what its record and its occurrences are. -/
namespace Sys2Proof.Machine

/-! ### SET_PAYLOAD and TALLY_SET (R112, R117) -/

theorem setPayload_outcome (tag : Byte) (limit : BitVec 24) (s : State) (hs : s.linkReady) :
    let good := 1 ≤ limit.toNat ∧ limit.toNat ≤ 99999
    (¬good → exec (.setPayload tag limit) s = .next (s.replied tag 0x40 .range (be 3 s.tally.limit ++ be 4 s.tally.total)))
    ∧ (good → exec (.setPayload tag limit) s = .next ({ s with
        tally := { s.tally with limit := limit.toNat } }.replied tag 0x40 .ok (be 3 limit.toNat ++ be 4 s.tally.total))) := by
  intro good
  have reply {t : State} {status : Status} {results : List Byte} (ha : answerSetPayload limit s = ⟨t, status, results, 0, .nothing⟩) :
      exec (.setPayload tag limit) s = .next (t.replied tag 0x40 status results) :=
    exec_replied (i := .setPayload tag limit) rfl rfl hs ha
  have hrange : (decide (limit.toNat < 1) || decide (maxBunk < limit.toNat)) = true ↔ ¬good := by
    simp only [good, maxBunk, Bool.or_eq_true, decide_eq_true_eq]
    omega
  exact ⟨fun hbad => reply (if_pos (hrange.2 hbad)), fun hgood => reply (if_neg (mt hrange.1 (not_not_intro hgood)))⟩

/-- The sum of a list read entry by entry. -/
theorem sum_ofFn_getD {n : Nat} {weights : List (BitVec 24)} (h : weights.length = n) :
    (List.ofFn fun k : Fin n => (weights.getD k.val 0).toNat).sum = (weights.map BitVec.toNat).sum := by
  congr 1
  apply List.ext_getElem
  · simp [h]
  · intro i h1 h2
    have hi : i < weights.length := by simpa using h2
    simp [List.getD_eq_getElem?_getD, hi]

/-- The weights written are the bunk total, and the opening total with it (R117). -/
theorem setWeights_total (t : Tally) {weights : List (BitVec 24)} (h : weights.length = 12) :
    (t.setWeights weights).total = (weights.map BitVec.toNat).sum := by
  rw [← sum_ofFn_getD h]
  show ((Vector.ofFn fun i : Fin 12 => ({ t.entries[i] with bunk := (weights.getD i.val 0).toNat } : SortEntry)).toList.map
    SortEntry.bunk).sum = _
  rw [Vector.toList_ofFn, List.map_ofFn]
  rfl

theorem tallySet_outcome (tag : Byte) (weights : List (BitVec 24)) (s : State) (hs : s.linkReady) (hlen : weights.length = 12) :
    let tooLarge := ∃ w ∈ weights, 99999 < w.toNat
    (1 < s.tally.nextLift → exec (.tallySet tag weights) s = .next (s.replied tag 0x42 .state (tallySetReply s.tally)))
    ∧ (s.tally.nextLift ≤ 1 → tooLarge → exec (.tallySet tag weights) s =
        .next (s.replied tag 0x42 .range (tallySetReply s.tally)))
    ∧ (s.tally.nextLift ≤ 1 → ¬tooLarge → ∃ t, exec (.tallySet tag weights) s =
        .next ({ s with tally := t }.replied tag 0x42 .ok (tallySetReply t))
        ∧ (∀ k : Fin 12, t.entries[k] = { s.tally.entries[k] with bunk := (weights.getD k.val 0).toNat })
        ∧ t.opening = (weights.map BitVec.toNat).sum ∧ t.total = t.opening
        ∧ { t with entries := s.tally.entries, opening := s.tally.opening } = s.tally) := by
  intro tooLarge
  have reply {t : State} {status : Status} {results : List Byte} (ha : answerTallySet weights s = ⟨t, status, results, 0, .nothing⟩) :
      exec (.tallySet tag weights) s = .next (t.replied tag 0x42 status results) :=
    exec_replied (i := .tallySet tag weights) rfl (by simp [Instr.wf, hlen]) hs ha
  have hlarge : (weights.any fun w => decide (maxBunk < w.toNat)) = true ↔ tooLarge := by
    simp only [List.any_eq_true, decide_eq_true_eq, tooLarge]
  refine ⟨fun hnumbered => reply (if_pos hnumbered), fun hfresh hbad => reply ?range, fun hfresh hgood =>
    ⟨s.tally.setWeights weights, reply ?written, fun k => ?entry, setWeights_total s.tally hlen, rfl, rfl⟩⟩
  case range =>
    unfold answerTallySet
    rw [if_neg (by omega)]
    exact if_pos (hlarge.2 hbad)
  case written =>
    unfold answerTallySet
    rw [if_neg (by omega)]
    exact if_neg (mt hlarge.1 hgood)
  case entry => simp [Tally.setWeights]

/-- Settles O34. -/
theorem tallyWritesOutcome : Obligations.TallyWritesOutcome := ⟨setPayload_outcome, tallySet_outcome⟩

/-! ### Lift and adjustment records in the queue (R128 to R130, R134) -/

/-- RECORDS_READY of an admission comes in POLLED, when the threshold is reached (R134). -/
theorem takeLift_ready (q : RecordQueue) (r : LiftRecord) (now : Time) {s t : State} (h : s.reports t (q.takeLift r now).2.1) :
    s.occursIff t (q.lifts < 30 ∧ q.mode = .polled ∧ q.records.length + 1 = q.threshold)
      (.recordsReady .threshold (q.lifts + 1) q.loads now) := by
  rw [takeLift_events] at h
  refine h.occursIff (fun ⟨hroom, hready⟩ => ?_) fun hnot => ?_
  · rw [if_pos hroom, if_pos hready]
    rfl
  · split
    · next hroom => rw [if_neg fun hready => hnot ⟨hroom, hready⟩]; rfl
    · split <;> rfl

/-- RECORD_GAP comes at the first fold into an empty accumulator (R130). -/
theorem takeLift_gap (q : RecordQueue) (r : LiftRecord) (now : Time) {s t : State} (h : s.reports t (q.takeLift r now).2.1) :
    s.occursIff t (30 ≤ q.lifts ∧ q.gap.lifts = 0) (.recordGap r.loadNumber r.liftNumber r.direction q.lifts q.loads now) := by
  rw [takeLift_events] at h
  refine h.occursIff (fun ⟨hfull, hempty⟩ => ?_) fun hnot => ?_
  · rw [if_neg (not_lt.2 hfull), if_pos hempty]
    rfl
  · split
    · split <;> rfl
    · next hfull => rw [if_neg fun hempty => hnot ⟨not_lt.1 hfull, hempty⟩]; rfl

/-- An admitted record joins the tail with the gap part, and the accumulator is empty (R128). -/
theorem takeLift_admitted {q : RecordQueue} (h : q.lifts < 30) (r : LiftRecord) (now : Time) : (q.takeLift r now).1 =
    { q with records := q.records ++ [⟨.lift { r with gap := q.gap.part }, false⟩], gap := ⟨0, 0, 0, 0⟩ } := by
  unfold RecordQueue.takeLift
  rw [if_pos h]
  rfl

theorem takeLift_folded {q : RecordQueue} (h : 30 ≤ q.lifts) (r : LiftRecord) (now : Time) :
    (q.takeLift r now).1 = { q with gap := q.gap.fold r.direction r.applied } := by
  unfold RecordQueue.takeLift
  rw [if_neg (not_lt.2 h)]

/-- The gap part is present when the accumulator is not empty (R128). -/
theorem part_eq (g : Gap) : g.part = if g.lifts = 0 then none else some g := by
  by_cases h : g.lifts = 0 <;> simp [Gap.part, Gap.nonEmpty, h]

/-! ### TALLY_ADJUST (R114 to R116) -/

/-- The reply's last byte says ADMITTED or FOLDED. -/
theorem takeLift_admits (q : RecordQueue) (r : LiftRecord) (now : Time) : (!(q.takeLift r now).2.2) = decide (30 ≤ q.lifts) := by
  unfold RecordQueue.takeLift
  split
  · next h => simpa using h
  · next h => simpa using h

theorem excessGiven_getD (n : Nat) : (excessGiven n).getD 0 = n := by
  unfold excessGiven
  split
  · next h => exact h.symm
  · rfl

/-- Settles O35. -/
theorem tallyAdjustOutcome : Obligations.TallyAdjustOutcome := by
  intro tag sort amount s hs a
  have reply {t : State} {status : Status} {results : List Byte} (ha : answerTallyAdjust sort amount s = ⟨t, status, results, 0, .nothing⟩) :
      exec (.tallyAdjust tag sort amount) s = .next (t.replied tag 0x41 status results) :=
    exec_replied (i := .tallyAdjust tag sort amount) rfl rfl hs ha
  refine ⟨fun hbad => reply ?range, ?adjusted⟩
  case range =>
    unfold answerTallyAdjust
    cases hsort : sortOf sort with
    | none => rfl
    | some k =>
      refine if_pos ?_
      rcases hbad with h | h | h
      · rw [sortOf_none (.inl h)] at hsort
        cases hsort
      · rw [sortOf_none (.inr h)] at hsort
        cases hsort
      · exact h
  case adjusted =>
    intro k hk hsmall e applied
    let r := adjustRecord s.tally k a s.time
    let q := s.records.takeLift r s.time
    let t := { s with tally := s.tally.adjust k a, records := q.1 }.raiseAll q.2.1
    have hreports : s.reports t q.2.1 := State.raiseAll_reports { s with tally := s.tally.adjust k a, records := q.1 } q.2.1
    refine ⟨t, reply ?_, rfl, fun hroom => ?_, fun hfull => takeLift_folded hfull r s.time, takeLift_ready s.records r s.time hreports,
      takeLift_gap s.records r s.time hreports, fun kind hready hgap => hreports.silent fun d hd hkind => ?_, rfl⟩
    · unfold answerTallyAdjust
      rw [sortOf_some hk]
      dsimp only
      rw [if_neg (not_lt.2 hsmall)]
      have hexcess : r.excess.getD 0 = a.natAbs - applied.natAbs := excessGiven_getD _
      show Answer.ok t (adjustReply r (s.tally.adjust k a) q.2.2) = _
      unfold adjustReply
      rw [hexcess, takeLift_admits]
      rfl
    · have hq : t.records = _ := takeLift_admitted hroom r s.time
      rw [hq]
      exact ⟨rfl, rfl, rfl, { r with gap := s.records.gap.part }, rfl, rfl, rfl, rfl, rfl, rfl, rfl, rfl, rfl, rfl, rfl, rfl, rfl, rfl,
        rfl, rfl, rfl, rfl, rfl, rfl, rfl, part_eq _⟩
    · rcases kind_of_mem_takeLift hd with h | h
      · exact hready (hkind ▸ h)
      · exact hgap (hkind ▸ h)

/-! ### LOAD_CLOSE (R118 to R120, R131) -/

theorem closeModeOf_code (m : CloseMode) : closeModeOf m.code = some m := by cases m <;> rfl

theorem closeModeOf_none {b : Byte} (h : 1 < b.toNat) : closeModeOf b = none := (ofByte_eq_none_iff b _ _).2 h

/-- The load record has an entry for each sort with a bunk weight or with activity (R119). -/
theorem mem_closing_iff (t : Tally) (x : LoadEntry) : x ∈ t.closing ↔ x.entry = t.entries[x.sort]
    ∧ (0 < t.entries[x.sort].bunk ∨ t.entries[x.sort].active = true) := by
  have hall : ∀ k : Fin 12, k ∈ sortList := by decide
  simp only [Tally.closing, List.mem_filterMap]
  constructor
  · rintro ⟨k, _, hk⟩
    split at hk
    · next h =>
      cases hk
      exact ⟨rfl, by simpa using h⟩
    · cases hk
  · rintro ⟨hentry, hactive⟩
    refine ⟨x.sort, hall _, ?_⟩
    rw [if_pos (by simpa using hactive), ← hentry]

theorem active_iff (e : SortEntry) : e.active = true ↔
    e.loaded ≠ 0 ∨ e.unloaded ≠ 0 ∨ e.adjusted ≠ 0 ∨ e.loadLifts ≠ 0 ∨ e.unloadLifts ≠ 0 := by
  simp only [SortEntry.active, Bool.or_eq_true, bne_iff_ne, or_assoc]

/-- The entries of a load record stand in sort order (R119). -/
theorem closing_sorted (t : Tally) : t.closing.Pairwise fun x y => x.sort < y.sort := by
  have hsorted : sortList.Pairwise (· < ·) := by decide
  refine hsorted.filterMap _ fun i j hij x hx y hy => ?_
  split at hx
  · split at hy
    · cases hx
      cases hy
      exact hij
    · cases hy
  · cases hx

/-- Settles O36. -/
theorem loadCloseOutcome : Obligations.LoadCloseOutcome := by
  intro tag closeMode s hs
  have reply {t : State} {status : Status} {results : List Byte} (ha : answerLoadClose closeMode s = ⟨t, status, results, 0, .nothing⟩) :
      exec (.loadClose tag closeMode) s = .next (t.replied tag 0x43 status results) :=
    exec_replied (i := .loadClose tag closeMode) rfl rfl hs ha
  refine ⟨fun hbad => reply ?range, fun m hm => ⟨fun hfull => reply ?full, fun hroom => ?closed⟩⟩
  case range =>
    unfold answerLoadClose
    rw [closeModeOf_none hbad]
    rfl
  case full =>
    unfold answerLoadClose
    rw [hm, closeModeOf_code]
    exact if_pos hfull
  case closed =>
    let r := s.tally.loadRecord m s.time
    let q := s.records.takeLoad r s.time
    let t := { s with tally := s.tally.newLoad m s.time, records := q.1 }.raiseAll q.2
    have hreports : s.reports t q.2 := State.raiseAll_reports { s with tally := s.tally.newLoad m s.time, records := q.1 } q.2
    have hevents : q.2 = _ := takeLoad_events s.records r s.time
    rw [hevents] at hreports
    refine ⟨t, { r with gap := s.records.gap.part }, reply ?_, rfl, rfl, rfl, rfl, rfl, rfl, rfl, rfl, rfl, rfl, part_eq _,
      fun x hx => ((mem_closing_iff _ x).1 hx).1, fun k => ?_, closing_sorted s.tally, fun k => ?_, rfl, rfl, rfl, rfl, rfl, rfl, rfl, rfl,
      hreports.occursIff (fun hpolled => ?_) fun hstream => ?_, fun kind hkind => hreports.silent fun d hd => ?_, rfl⟩
    · unfold answerLoadClose
      rw [hm, closeModeOf_code]
      dsimp only
      rw [if_neg (not_le.2 hroom)]
      rfl
    · constructor
      · rintro ⟨x, hx, rfl⟩
        have := ((mem_closing_iff _ x).1 hx).2
        rwa [active_iff] at this
      · intro hactive
        rw [← active_iff] at hactive
        exact ⟨⟨k, s.tally.entries[k]⟩, (mem_closing_iff _ _).2 ⟨rfl, hactive⟩, rfl⟩
    · show (Vector.ofFn fun i : Fin 12 => s.tally.entries[i].renew m)[k] = _
      simp [SortEntry.renew]
    · rw [if_pos hpolled]
      rfl
    · rw [if_neg hstream]
      rfl
    · split at hd
      · rw [List.mem_singleton.1 hd]
        exact fun h => hkind h.symm
      · cases hd

end Sys2Proof.Machine
end

section
/-! The requests of the record queue (R135, R136, R199), and the fold into the gap accumulator (R127, R129). -/
namespace Sys2Proof.Machine

/-! ### SET_STREAM (R134, R136) -/

theorem streamModeOf_code (m : StreamMode) : streamModeOf m.code = some m := by cases m <;> rfl

theorem readyNow_iff (q : RecordQueue) : q.readyNow = true ↔ q.threshold ≤ q.records.length ∨ q.loads ≠ 0 := by
  simp [RecordQueue.readyNow]

/-- A RECORDS_READY of a setting comes in POLLED, when the threshold is reached or a load record is held (R134). -/
theorem settingReady_eq (cause : ReadyCause) (q : RecordQueue) (now : Time) : settingReady cause q now =
    if q.mode = .polled ∧ (q.threshold ≤ q.records.length ∨ q.loads ≠ 0) then [.recordsReady cause q.lifts q.loads now] else [] := by
  simp only [settingReady, Bool.and_eq_true, decide_eq_true_eq, readyNow_iff]

/-- Settles O38. -/
theorem setStreamOutcome : Obligations.SetStreamOutcome := by
  intro tag mode threshold s hs bad
  have reply {t : State} {status : Status} {results : List Byte} (ha : answerSetStream mode threshold s = ⟨t, status, results, 0, .nothing⟩) :
      exec (.setStream tag mode threshold) s = .next (t.replied tag 0x49 status results) :=
    exec_replied (i := .setStream tag mode threshold) rfl rfl hs ha
  have accepted {m : StreamMode} (hm : mode = m.code) (hgood : ¬bad) :
      let q := { s.records with mode := m, threshold := threshold.toNat }
      answerSetStream mode threshold s = .ok ({ s with records := q }.raiseAll (settingReady .setting q s.time)) (streamReply q) := by
    unfold answerSetStream
    rw [hm, streamModeOf_code]
    exact if_neg (by
      simp only [Bool.or_eq_true, decide_eq_true_eq]
      exact fun h => hgood (.inr h))
  refine ⟨fun hbad => reply ?range, fun m hm hgood => ⟨fun hnot => reply ?silent, fun hready => reply ?raised⟩⟩
  case range =>
    unfold answerSetStream
    cases hmode : streamModeOf mode with
    | none => rfl
    | some m =>
      refine if_pos ?_
      have hrange := hbad.resolve_left fun h => by
        rw [show streamModeOf mode = none from (ofByte_eq_none_iff mode _ _).2 h] at hmode
        cases hmode
      simpa only [Bool.or_eq_true, decide_eq_true_eq] using hrange
  case silent =>
    have hnone : settingReady .setting { s.records with mode := m, threshold := threshold.toNat } s.time = [] :=
      (settingReady_eq _ _ _).trans (if_neg hnot)
    have ha := accepted hm hgood
    dsimp only at ha
    rw [hnone] at ha
    exact ha
  case raised =>
    have hone : settingReady .setting { s.records with mode := m, threshold := threshold.toNat } s.time = [_] :=
      (settingReady_eq _ _ _).trans (if_pos hready)
    have ha := accepted hm hgood
    dsimp only at ha
    rw [hone] at ha
    exact ha

/-! ### FETCH_RECORDS (R135, R199) -/

/-- The bytes that the first n records take in the reply. -/
def fetchSize (l : List HeldRecord) (n : Nat) : Nat := ((l.take n).map fun h : HeldRecord => 1 + h.record.bytes.length).sum

theorem fetchSize_cons (h : HeldRecord) (t : List HeldRecord) (n : Nat) :
    fetchSize (h :: t) (n + 1) = 1 + h.record.bytes.length + fetchSize t n := by
  simp [fetchSize]

/-- The reply carries the longest run from the front that fits, up to the number asked for. -/
theorem fetchTake_eq (number room : Nat) (l : List HeldRecord) : ∃ n, fetchTake number room l = (l.take n).map HeldRecord.record
    ∧ n ≤ number ∧ n ≤ l.length ∧ fetchSize l n ≤ room ∧ (n < number → n < l.length → room < fetchSize l (n + 1)) := by
  induction number generalizing room l with
  | zero => exact ⟨0, rfl, Nat.le_refl 0, Nat.zero_le _, Nat.zero_le _, fun h => absurd h (Nat.lt_irrefl 0)⟩
  | succ number ih =>
    cases l with
    | nil => exact ⟨0, rfl, Nat.zero_le _, Nat.le_refl 0, Nat.zero_le _, fun _ h => absurd h (Nat.lt_irrefl 0)⟩
    | cons h t =>
      have hsize : (fetchedBytes h.record).length = 1 + h.record.bytes.length := by simp [fetchedBytes, be]; omega
      unfold fetchTake
      dsimp only
      rw [hsize]
      split
      · next hfits =>
        obtain ⟨n, heq, hnumber, hlength, hroom, hlongest⟩ := ih (room - (1 + h.record.bytes.length)) t
        refine ⟨n + 1, by simp [heq], by omega, by simpa using hlength, ?_, fun h1 h2 => ?_⟩
        · rw [fetchSize_cons]
          omega
        · have := hlongest (by omega) (by simpa using h2)
          rw [fetchSize_cons]
          omega
      · next hbig =>
        refine ⟨0, rfl, Nat.zero_le _, Nat.zero_le _, Nat.zero_le _, fun _ _ => ?_⟩
        rw [fetchSize_cons]
        simp only [fetchSize, List.take_zero, List.map_nil, List.sum_nil]
        omega

/-- Marking changes no count of records. -/
theorem lifts_markFirst (q : RecordQueue) (n : Nat) : ({ q with records := markFirst n q.records } : RecordQueue).lifts = q.lifts := by
  simp only [RecordQueue.lifts_eq, RecordQueue.markFirst_records]
theorem loads_markFirst (q : RecordQueue) (n : Nat) : ({ q with records := markFirst n q.records } : RecordQueue).loads = q.loads := by
  simp only [RecordQueue.loads_eq, RecordQueue.markFirst_records]

/-- Of the records carried, those that are no lift records are load records. -/
theorem length_filter_isLift_add (l : List HeldRecord) :
    ((l.map HeldRecord.record).filter fun r => !r.isLift).length + (l.filter fun h : HeldRecord => h.record.isLift).length = l.length := by
  induction l with
  | nil => rfl
  | cons h t ih =>
    cases hr : h.record.isLift <;> simp [hr] <;> omega

/-- Settles O37. -/
theorem fetchRecordsOutcome : Obligations.FetchRecordsOutcome := by
  intro tag number s hs asked unmarked size
  have reply {t : State} {status : Status} {results : List Byte} (ha : answerFetchRecords number s = ⟨t, status, results, 0, .nothing⟩) :
      exec (.fetchRecords tag number) s = .next (t.replied tag 0x48 status results) :=
    exec_replied (i := .fetchRecords tag number) rfl rfl hs ha
  have hrange : (decide (number.toNat < 1) || decide (4 < number.toNat)) = true ↔ ¬asked := by
    simp only [asked, Bool.or_eq_true, decide_eq_true_eq]
    omega
  refine ⟨fun hbad => reply (if_pos (hrange.2 hbad)), fun hasked hstream => reply ?state, fun hasked hpolled => ?carried⟩
  case state =>
    unfold answerFetchRecords
    rw [if_neg (mt hrange.1 (not_not_intro hasked))]
    exact if_pos hstream
  case carried =>
    obtain ⟨n, htake, hnumber, hlength, hroom, hlongest⟩ := fetchTake_eq number.toNat fetchRoom unmarked
    refine ⟨n, ?_, hnumber, hlength, hroom, hlongest⟩
    let carried := unmarked.take n
    let lifts := (carried.filter fun h : HeldRecord => h.record.isLift).length
    have hcount : carried.length = n := by simp [carried, hlength]
    have hloads := length_filter_isLift_add carried
    have hanswer : answerFetchRecords number s =
        ⟨{ s with records := { s.records with records := markFirst n s.records.records } }, .ok,
          fetchReply { s.records with records := markFirst n s.records.records } (carried.map HeldRecord.record), n, .nothing⟩ := by
      unfold answerFetchRecords
      rw [if_neg (mt hrange.1 (not_not_intro hasked)), if_neg (by rw [hpolled]; decide)]
      have hcarried : fetchTake number.toNat fetchRoom s.records.unmarked = carried.map HeldRecord.record := htake
      simp only [hcarried, List.length_map, hcount]
    have hreply : fetchReply { s.records with records := markFirst n s.records.records } (carried.map HeldRecord.record) =
        be 1 n ++ be 1 ((s.records.lifts : Int) - lifts) ++ be 1 ((s.records.loads : Int) - (n - lifts))
          ++ [boolByte (s.records.gap.lifts != 0)]
          ++ carried.flatMap (fun h : HeldRecord => be 1 h.record.bytes.length ++ h.record.bytes) := by
      have hlifts : ((carried.map HeldRecord.record).filter Record.isLift).length = lifts := by
        simp only [List.filter_map, List.length_map]
        rfl
      have hothers : (((carried.map HeldRecord.record).filter fun r => !r.isLift).length : Int) = n - lifts := by omega
      unfold fetchReply
      rw [lifts_markFirst, loads_markFirst, hlifts, hothers, List.length_map, hcount, List.flatMap_map]
      rfl
    rw [exec_request (i := .fetchRecords tag number) rfl rfl hs]
    rw [show answer (.fetchRecords tag number) s = _ from hanswer, hreply]

/-! ### The gap accumulator (R127, R129) -/

/-- The net amount of an accumulator: loaded plus adjusted minus unloaded. -/
def Gap.amount (g : Gap) : Int := (g.loaded : Int) + g.adjusted - g.unloaded

/-- Netting leaves one of the sums, and the net amount. -/
theorem Gap.net_sums (g : Gap) : (g.net.loaded : Int) = max g.amount 0 ∧ (g.net.unloaded : Int) = max (-g.amount) 0 ∧ g.net.adjusted = 0
    ∧ g.net.lifts = g.lifts := by
  unfold Gap.net Gap.amount
  dsimp only
  split <;> refine ⟨?_, ?_, rfl, rfl⟩ <;> simp only [Int.ofNat_toNat] <;> omega

/-- A fold adds to the sums, which are netted first where the amount would not fit. -/
theorem Gap.fold_eq (g : Gap) (d : Direction) (applied : Int) :
    (g.fits d applied = true → g.fold d applied = { g.add d applied with lifts := satInc 255 g.lifts })
    ∧ (g.fits d applied = false → g.fold d applied = { g.net.add d applied with lifts := satInc 255 g.lifts }) := by
  refine ⟨fun h => ?_, fun h => ?_⟩
  · simp only [Gap.fold, h, if_true]
  · simp only [Gap.fold, h, Bool.false_eq_true, if_false, g.net_sums.2.2.2]

/-- What is added, by the direction. -/
theorem Gap.add_sums (g : Gap) {d : Direction} {applied : Int} (hload : d = .load → 0 ≤ applied) (hunload : d = .unload → applied ≤ 0) :
    ((g.add d applied).loaded : Int) = g.loaded + (if d = .load then applied else 0)
    ∧ ((g.add d applied).unloaded : Int) = g.unloaded - (if d = .unload then applied else 0)
    ∧ (g.add d applied).adjusted = g.adjusted + (if d = .adjust then applied else 0) := by
  cases d with
  | load =>
    simp [Gap.add, abs_of_nonneg (hload rfl)]
  | unload =>
    simp [Gap.add, abs_of_nonpos (hunload rfl), sub_eq_add_neg]
  | shift => simp [Gap.add]
  | returned => simp [Gap.add]
  | adjust => simp [Gap.add]

/-- The amount fits beside the sum that its direction names. -/
theorem Gap.fits_iff (g : Gap) {d : Direction} {applied : Int} (hload : d = .load → 0 ≤ applied) (hunload : d = .unload → applied ≤ 0) :
    g.fits d applied = true ↔ (d = .load → g.loaded + applied ≤ 16777215) ∧ (d = .unload → g.unloaded - applied ≤ 16777215)
      ∧ (d = .adjust → -8388608 ≤ g.adjusted + applied ∧ g.adjusted + applied ≤ 8388607) := by
  cases d with
  | load =>
    have := hload rfl
    simp [Gap.fits, maxSum]
    omega
  | unload =>
    have := hunload rfl
    simp [Gap.fits, maxSum]
    omega
  | shift => simp [Gap.fits]
  | returned => simp [Gap.fits]
  | adjust => simp [Gap.fits, adjustedFits]

/-- An amount is of one direction, or 0. -/
theorem sum_by_direction {d : Direction} {a : Int} (hnone : d = .shift ∨ d = .returned → a = 0) :
    (if d = .load then a else 0) + (if d = .unload then a else 0) + (if d = .adjust then a else 0) = a := by
  cases d with
  | load => simp
  | unload => simp
  | adjust => simp
  | shift => simp [hnone (.inl rfl)]
  | returned => simp [hnone (.inr rfl)]

/-- Settles O39: each sum after a fold, with and without netting. -/
theorem foldKeepsTheNetAmount : Obligations.FoldKeepsTheNetAmount := by
  intro g d applied hload hunload hnone f
  obtain ⟨hl, hu, ha⟩ := g.add_sums hload hunload
  obtain ⟨hnl, hnu, hna⟩ := g.net.add_sums hload hunload
  obtain ⟨hloaded, hunloaded, hadjusted, _⟩ := g.net_sums
  obtain ⟨hfold, hnet⟩ := g.fold_eq d applied
  have hsum := sum_by_direction hnone
  have hfits := g.fits_iff hload hunload
  unfold Gap.amount at hloaded hunloaded
  cases hf : g.fits d applied with
  | true =>
    obtain ⟨hloadFits, hunloadFits, hadjustFits⟩ := hfits.1 hf
    rw [show f = _ from hfold hf]
    refine ⟨?amount, rfl, fun hd _ => ?load, fun hd _ => ?unload, fun hd _ _ => ?adjust, fun hd => ?neither, fun hover => ?netted⟩
    case amount => dsimp only; linarith
    case load => subst hd; simp at hl hu ha; exact ⟨hl, hu, ha⟩
    case unload => subst hd; simp at hl hu ha; exact ⟨hu, hl, ha⟩
    case adjust => subst hd; simp at hl hu ha; exact ⟨ha, hl, hu⟩
    case neither => rcases hd with hd | hd <;> subst hd <;> simp at hl hu ha <;> exact ⟨hl, hu, ha⟩
    case netted =>
      rcases hover with ⟨hd, hover⟩ | ⟨hd, hover⟩ | ⟨hd, hover⟩
      · exact absurd (hloadFits hd) (not_le.2 hover)
      · exact absurd (hunloadFits hd) (not_le.2 hover)
      · have := hadjustFits hd
        omega
  | false =>
    have hfull : ¬_ := fun h => by rw [hfits.2 h] at hf; cases hf
    rw [show f = _ from hnet hf]
    refine ⟨?amount, rfl, fun hd hroom => (hfull ?load).elim, fun hd hroom => (hfull ?unload).elim, fun hd hlow hhigh => (hfull ?adjust).elim,
      fun hd => (hfull ?neither).elim, fun hover => ⟨?loaded, ?unloaded, ?adjusted⟩⟩
    case amount => dsimp only; omega
    case load => subst hd; exact ⟨fun _ => hroom, nofun, nofun⟩
    case unload => subst hd; exact ⟨nofun, fun _ => hroom, nofun⟩
    case adjust => subst hd; exact ⟨nofun, nofun, fun _ => ⟨hlow, hhigh⟩⟩
    case neither => rcases hd with hd | hd <;> subst hd <;> exact ⟨nofun, nofun, nofun⟩
    case loaded => dsimp only; rw [hnl, hloaded]
    case unloaded => dsimp only; rw [hnu, hunloaded]
    case adjusted => dsimp only; rw [hna, hadjusted, Int.zero_add]

end Sys2Proof.Machine
end

section
/-! The requests of operation unit and permit unit (chapters 8 and 9): what each answers in each case, and the outputs (R153 to R157). -/
namespace Sys2Proof.Machine

/-! ### ZERO, SPAN and OP_ABORT (R140, R142, R144, R148) -/

/-- The slot in a reply (R140). -/
@[simp] theorem slotBytes_some (o : Op) : slotBytes (some o) = [1, 1, o.kind.code] := rfl
@[simp] theorem slotBytes_none : slotBytes none = [0, 0] := rfl

theorem isGripped_iff (k : TrackerState) : k.isGripped = true ↔ ∃ l, k = .gripped l := by
  cases k <;> simp [TrackerState.isGripped]

section
variable {s : State}

theorem answerZero_idle (h : s.op.slot = none) : answerZero s =
    if s.scanner.mode = .auto ∧ s.tracker.state = .empty ∧ s.table.state = .valid then
      .accepted { s with op := { s.op with slot := some (.zero 0 0 0) } } [1, 1, 0]
    else .refuse .state s [0, 0] := by
  unfold answerZero
  rw [h, if_neg (by simp)]
  simp only [Bool.and_eq_true, decide_eq_true_eq, beq_iff_eq, and_assoc]
  rfl

/-- What SPAN needs of tracker, window and table (R148). -/
def spanMay (s : State) : Prop :=
  (∃ l, s.tracker.state = .gripped l) ∧ s.weigh.window.state = .unopened ∧ s.table.state = .valid

theorem answerSpan_range (h : s.op.slot = none) {mass : BitVec 16} (hmass : ¬(100 ≤ mass.toNat ∧ mass.toNat ≤ 10000)) :
    answerSpan mass s = .refuse .range s ([0, 0] ++ split16 mass) := by
  unfold answerSpan
  rw [h, if_neg (by simp)]
  refine if_pos ?_
  simp only [Bool.or_eq_true, decide_eq_true_eq]
  omega

/-- With the slot IDLE and a mass in its range only the crane's state can refuse (R148). -/
theorem answerSpan_idle (h : s.op.slot = none) {mass : BitVec 16} (hmass : 100 ≤ mass.toNat ∧ mass.toNat ≤ 10000) :
    (spanMay s → answerSpan mass s = .accepted (startSpan mass.toNat s) ([1, 1, 1] ++ split16 mass))
    ∧ (¬spanMay s → answerSpan mass s = .refuse .state s ([0, 0] ++ split16 mass)) := by
  have hmay : (s.tracker.state.isGripped && s.weigh.window.state == .unopened && s.table.state == .valid) = true ↔ spanMay s := by
    simp only [Bool.and_eq_true, beq_iff_eq, isGripped_iff, and_assoc, spanMay]
  have hrange : ¬(decide (mass.toNat < 100) || decide (10000 < mass.toNat)) = true := by
    simp only [Bool.or_eq_true, decide_eq_true_eq]
    omega
  unfold answerSpan
  rw [h, if_neg (by simp), if_neg hrange]
  exact ⟨fun hs => if_pos (hmay.2 hs), fun hs => if_neg (mt hmay.1 hs)⟩

end

/-- Settles O40. -/
theorem operationRequestsOutcome : Obligations.OperationRequestsOutcome := by
  intro tag mass s hs zeroMay massMay mayNow ground last calibration
  have zero {t : State} {status : Status} {results : List Byte} (ha : answerZero s = ⟨t, status, results, 0, .nothing⟩) :
      exec (.zero tag) s = .next (t.replied tag 0x50 status results) := exec_replied (i := .zero tag) rfl rfl hs ha
  have span {t : State} {status : Status} {results : List Byte} (ha : answerSpan mass s = ⟨t, status, results, 0, .nothing⟩) :
      exec (.span tag mass) s = .next (t.replied tag 0x51 status results) := exec_replied (i := .span tag mass) rfl rfl hs ha
  have abort {t : State} {status : Status} {results : List Byte} (ha : answerOpAbort s = ⟨t, status, results, 0, .nothing⟩) :
      exec (.opAbort tag) s = .next (t.replied tag 0x52 status results) := exec_replied (i := .opAbort tag) rfl rfl hs ha
  refine ⟨fun o ho => ⟨zero ?zeroBusy, span ?spanBusy⟩, fun hn hmay => zero ((answerZero_idle hn).trans (if_neg hmay)),
    fun hn hmay => zero ((answerZero_idle hn).trans (if_pos hmay)), fun hn hm => span (answerSpan_range hn hm),
    fun hn hm hmay => span ((answerSpan_idle hn hm).2 hmay), fun hn hm hmay => span ((answerSpan_idle hn hm).1 hmay),
    fun hn => abort ?abortIdle, fun o ho => ⟨s.abortOp .request, abort ?aborted, State.abortOp_aborts .request s,
      fun kind hkind => ?silent, (raiseAll_mask _ _).trans (by rw [abortState_events]),
      (raiseAll_mode _ _).trans (by rw [abortState_events]), ?frame⟩⟩
  case zeroBusy =>
    unfold answerZero
    rw [ho]
    rfl
  case spanBusy =>
    unfold answerSpan
    rw [ho]
    rfl
  case abortIdle =>
    unfold answerOpAbort
    rw [hn]
    have hlast : lastResultBytes = last := funext lastResultBytes_eq
    simp only [hlast]
    rfl
  case aborted =>
    unfold answerOpAbort
    rw [ho]
    rfl
  case silent =>
    have hreports : (abortState .request s).reports (s.abortOp .request) (abortEvents .request s) :=
      State.raiseAll_reports (abortState .request s) (abortEvents .request s)
    have hsilent := hreports.silent (k := kind) fun d hd => by rw [kind_of_mem_abortEvents hd]; exact hkind.symm
    unfold State.silent at hsilent
    rwa [abortState_events] at hsilent
  case frame =>
    have hframe := abortState_frame .request s
    calc { s.abortOp .request with op := s.op, weigh := s.weigh, scanner := s.scanner, events := s.events }
        = { ({ abortState .request s with op := s.op, weigh := s.weigh, scanner := s.scanner } : State) with events := s.events } := rfl
      _ = s := by rw [hframe]

/-! ### The outputs (R153, R155) -/

theorem max_code (a b : Level) : a.code.toNat ≤ (a.max b).code.toNat ∧ b.code.toNat ≤ (a.max b).code.toNat ∧ (a.max b = a ∨ a.max b = b) := by
  cases a <;> cases b <;> decide

/-- The most restrictive of a list of levels is one of them or the level begun with, and none is more restrictive. -/
theorem foldl_max (l : List Level) (a : Level) : (∀ x ∈ l, x.code.toNat ≤ (l.foldl Level.max a).code.toNat)
    ∧ a.code.toNat ≤ (l.foldl Level.max a).code.toNat ∧ (l.foldl Level.max a = a ∨ l.foldl Level.max a ∈ l) := by
  induction l generalizing a with
  | nil => exact ⟨fun _ h => absurd h List.not_mem_nil, Nat.le_refl _, .inl rfl⟩
  | cons x l ih =>
    obtain ⟨hall, hstart, hmem⟩ := ih (a.max x)
    obtain ⟨hleft, hright, heither⟩ := max_code a x
    refine ⟨fun y hy => ?_, hleft.trans hstart, ?_⟩
    · rcases List.mem_cons.1 hy with rfl | hy
      · exact hright.trans hstart
      · exact hall y hy
    · rcases hmem with hmem | hmem
      · rcases heither with h | h
        · exact .inl (hmem.trans h)
        · exact .inr (List.mem_cons.2 (.inl (hmem.trans h)))
      · exact .inr (List.mem_cons_of_mem _ hmem)

/-- A function read off a combination is the combination of what it reads off the rows. -/
theorem foldl_zip_max {f : PerFn Level → Level} (hf : ∀ p q : PerFn Level, f (p.zip Level.max q) = (f p).max (f q))
    (l : List (PerFn Level)) (a : PerFn Level) : f (l.foldl (PerFn.zip Level.max) a) = (l.map f).foldl Level.max (f a) := by
  induction l generalizing a with
  | nil => rfl
  | cons r l ih => rw [List.foldl_cons, ih, hf, List.map_cons, List.foldl_cons]

/-- Settles O42. -/
theorem outputIsMostRestrictive : Obligations.OutputIsMostRestrictive := by
  refine ⟨fun c f hf => ?combine, fun p => ⟨⟨rfl, rfl⟩, ⟨rfl, rfl⟩, ⟨rfl, rfl⟩, ⟨rfl, rfl⟩, ⟨rfl, rfl⟩, rfl, rfl⟩⟩
  have hproj : (∀ p q : PerFn Level, f (p.zip Level.max q) = (f p).max (f q)) ∧ f rowNone = .free := by
    simp only [List.mem_cons, List.not_mem_nil, or_false] at hf
    rcases hf with rfl | rfl | rfl | rfl | rfl | rfl <;> exact ⟨fun _ _ => rfl, rfl⟩
  have hcombine : f c.combine = (c.toList.map f).foldl Level.max .free := by
    rw [← hproj.2]
    exact foldl_zip_max hproj.1 c.toList rowNone
  obtain ⟨hall, _, hmem⟩ := foldl_max (c.toList.map f) .free
  rw [hcombine]
  exact ⟨fun row hrow => hall (f row) (List.mem_map_of_mem hrow), hmem⟩

end Sys2Proof.Machine
end

section
/-! The permit unit's commands (R157 to R168): PERMIT_HOLD, the aux lines, supervision. -/
namespace Sys2Proof.Machine

/-! ### The sources that hold a function (R157, R195) -/

/-- Bit n of the sum over a list tells whether its entry n has the property. -/
theorem testBit_sum_bits {α : Type} (p : α → Bool) (l : List α) (k acc n : Nat) (hacc : acc < 2 ^ k) :
    ((l.zipIdx k).foldl (fun acc x => if p x.1 then acc + 2 ^ x.2 else acc) acc).testBit n
      = (acc.testBit n || (decide (k ≤ n) && l[n - k]?.any p)) := by
  induction l generalizing k acc with
  | nil => simp
  | cons a l ih =>
    have hbit : (if p a then acc + 2 ^ k else acc).testBit n = (acc.testBit n || (decide (n = k) && p a)) := by
      cases hp : p a with
      | false => simp
      | true =>
        have hor : acc + 2 ^ k = 2 ^ k ||| acc := by
          rw [Nat.add_comm]
          simpa using Nat.two_pow_add_eq_or_of_lt hacc 1
        simp only [if_true, hor, Nat.testBit_or, Nat.testBit_two_pow, Bool.and_true]
        rw [Bool.or_comm]
        simp only [eq_comm]
    have hlt : (if p a then acc + 2 ^ k else acc) < 2 ^ (k + 1) := by
      have : 2 ^ (k + 1) = 2 ^ k + 2 ^ k := by omega
      split <;> omega
    rw [List.zipIdx_cons, List.foldl_cons, ih (k + 1) _ hlt, hbit]
    rcases Nat.lt_trichotomy n k with h | h | h
    · simp [Nat.ne_of_lt h, Nat.not_le.2 h, Nat.not_le.2 (Nat.lt_succ_of_lt h)]
    · subst h
      simp
    · have hle : k ≤ n := Nat.le_of_lt h
      have hsub : n - k = n - (k + 1) + 1 := by omega
      simp [Nat.ne_of_gt h, hle, Nat.succ_le_of_lt h, hsub]

/-- Bit n of the sources is set when source n contributes HOLD (R195). -/
theorem holdSources_getLsbD (c : Contributions) (f : PerFn Level → Level) (n : Fin 7) : (c.holdSources f).getLsbD n.val = true ↔
    ∃ row, [c.zone, c.overload, c.pose, c.table, c.mode, c.interlock, c.supervision][n.val]? = some row ∧ f row = .hold := by
  have hbits := testBit_sum_bits (fun row => decide (f row = .hold)) c.toList 0 0 n.val (by decide)
  simp only [decide_eq_true_eq, Nat.zero_testBit, Bool.false_or, Nat.zero_le, decide_true, Bool.true_and, Nat.sub_zero] at hbits
  have hsources : (c.holdSources f).getLsbD n.val = c.toList[n.val]?.any fun row => decide (f row = .hold) := by
    rw [← hbits]
    show (BitVec.ofNat 7 _).getLsbD n.val = _
    rw [BitVec.getLsbD_ofNat]
    simp [n.isLt]
  rw [hsources, Option.any_eq_true]
  simp only [decide_eq_true_eq]
  rfl

/-! ### Configuring the lines (R159, R162) -/

theorem auxModeOf_some {b : Byte} (h : b.toNat ≤ 3) : ∃ m : AuxMode, auxModeOf b = some m ∧ m.code = b := by
  have hcases : b = 0 ∨ b = 1 ∨ b = 2 ∨ b = 3 := by bv_omega
  rcases hcases with rfl | rfl | rfl | rfl
  · exact ⟨.off, rfl, rfl⟩
  · exact ⟨.state, rfl, rfl⟩
  · exact ⟨.interlock, rfl, rfl⟩
  · exact ⟨.mark, rfl, rfl⟩

theorem auxModeOf_none {b : Byte} (h : 3 < b.toNat) : auxModeOf b = none := by
  have hne : ∀ c : Byte, c.toNat ≤ 3 → b ≠ c := fun c hc heq => by subst heq; omega
  unfold auxModeOf
  rw [if_neg (hne 0 (by decide)), if_neg (hne 1 (by decide)), if_neg (hne 2 (by decide)), if_neg (hne 3 (by decide))]

theorem polarityOf_some {b : Byte} (h : b.toNat ≤ 1) : ∃ p : Bool, polarityOf b = some p ∧ polarityCode p = b := by
  have hcases : b = 0 ∨ b = 1 := by bv_omega
  rcases hcases with rfl | rfl
  · exact ⟨true, rfl, rfl⟩
  · exact ⟨false, rfl, rfl⟩

theorem polarityOf_none {b : Byte} (h : 1 < b.toNat) : polarityOf b = none := (ofByte_eq_none_iff b _ _).2 h

/-- A line with mode and polarity written, and nothing else changed. -/
def AuxLine.configuredBy (mode polarity : Byte) (before after : AuxLine) : Prop :=
  after.mode.code = mode ∧ polarityCode after.activeHigh = polarity
    ∧ { after with mode := before.mode, activeHigh := before.activeHigh } = before

theorem configure_some {mode polarity : Byte} (hm : mode.toNat ≤ 3) (hp : polarity.toNat ≤ 1) (a : AuxLine) :
    ∃ b, a.configure mode polarity = some b ∧ AuxLine.configuredBy mode polarity a b := by
  obtain ⟨m, hm, hmode⟩ := auxModeOf_some hm
  obtain ⟨p, hp, hpolarity⟩ := polarityOf_some hp
  exact ⟨{ a with mode := m, activeHigh := p }, by simp [AuxLine.configure, hm, hp], hmode, hpolarity, rfl⟩

theorem configure_none {mode polarity : Byte} (h : 3 < mode.toNat ∨ 1 < polarity.toNat) (a : AuxLine) :
    a.configure mode polarity = none := by
  unfold AuxLine.configure
  rcases h with h | h
  · rw [auxModeOf_none h]
  · rw [polarityOf_none h]
    split <;> first | rfl | contradiction

/-- Four good pairs configure the four lines, each by its own. -/
theorem configureLines_some {m p : Fin 4 → Byte} (hm : ∀ i, (m i).toNat ≤ 3) (hp : ∀ i, (p i).toNat ≤ 1) (aux : Vector AuxLine 4) :
    ∃ lines, configureLines (m 0) (p 0) (m 1) (p 1) (m 2) (p 2) (m 3) (p 3) aux = some lines
      ∧ ∀ i : Fin 4, AuxLine.configuredBy (m i) (p i) aux[i] lines[i] := by
  obtain ⟨a, ha, hline0⟩ := configure_some (hm 0) (hp 0) aux[0]
  obtain ⟨b, hb, hline1⟩ := configure_some (hm 1) (hp 1) aux[1]
  obtain ⟨c, hc, hline2⟩ := configure_some (hm 2) (hp 2) aux[2]
  obtain ⟨d, hd, hline3⟩ := configure_some (hm 3) (hp 3) aux[3]
  refine ⟨#v[a, b, c, d], by simp [configureLines, ha, hb, hc, hd], fun i => ?_⟩
  match i with
  | 0 => exact hline0
  | 1 => exact hline1
  | 2 => exact hline2
  | 3 => exact hline3

/-- One bad pair refuses all four lines. -/
theorem configureLines_none {m p : Fin 4 → Byte} {i : Fin 4} (h : 3 < (m i).toNat ∨ 1 < (p i).toNat) (aux : Vector AuxLine 4) :
    configureLines (m 0) (p 0) (m 1) (p 1) (m 2) (p 2) (m 3) (p 3) aux = none := by
  have hnone := configure_none h aux[i]
  unfold configureLines
  match i, hnone with
  | 0, hnone => rw [show aux[0].configure (m 0) (p 0) = none from hnone]
  | 1, hnone =>
    rw [show aux[1].configure (m 1) (p 1) = none from hnone]
    split <;> first | rfl | contradiction
  | 2, hnone =>
    rw [show aux[2].configure (m 2) (p 2) = none from hnone]
    split <;> first | rfl | contradiction
  | 3, hnone =>
    rw [show aux[3].configure (m 3) (p 3) = none from hnone]
    split <;> first | rfl | contradiction

/-- Good pairs are written, and the INTERLOCK row is formed and evaluated (R162). -/
theorem answerSetLines_ok {m p : Fin 4 → Byte} {s : State} {lines : Vector AuxLine 4}
    (h : configureLines (m 0) (p 0) (m 1) (p 1) (m 2) (p 2) (m 3) (p 3) s.permit.aux = some lines) :
    answerSetLines (m 0) (p 0) (m 1) (p 1) (m 2) (p 2) (m 3) (p 3) s =
      .ok { s with permit := { s.permit with aux := lines } }.refreshInterlock (linesReply lines) := by
  unfold answerSetLines
  rw [h]

/-! ### The INTERLOCK row (R161) -/

/-- A line in mode INTERLOCK whose debounced state is INACTIVE holds the functions. -/
theorem interlocked_iff (a : AuxLine) : a.interlocked = true ↔ a.mode = .interlock ∧ a.level ≠ a.activeHigh := by
  simp [AuxLine.interlocked, AuxLine.active]

/-- The row that an update of the lines forms. -/
theorem refreshInterlock_row (s : State) : s.refreshInterlock.permit.rows = { s.permit.rows with
    interlock := s.refreshInterlock.permit.rows.interlock }
    ∧ s.refreshInterlock.permit.aux = s.permit.aux
    ∧ ((∃ i : Fin 4, s.permit.aux[i].mode = .interlock ∧ s.permit.aux[i].level ≠ s.permit.aux[i].activeHigh) →
        s.refreshInterlock.permit.rows.interlock = rowHold)
    ∧ ((¬∃ i : Fin 4, s.permit.aux[i].mode = .interlock ∧ s.permit.aux[i].level ≠ s.permit.aux[i].activeHigh) →
        s.refreshInterlock.permit.rows.interlock = rowNone) := by
  have hany : s.permit.aux.toList.any AuxLine.interlocked = true
      ↔ ∃ i : Fin 4, s.permit.aux[i].mode = .interlock ∧ s.permit.aux[i].level ≠ s.permit.aux[i].activeHigh := by
    rw [any_interlocked_iff]
    simp only [interlocked_iff]
  exact ⟨rfl, rfl, fun h => if_pos (hany.2 h), fun h => if_neg (mt hany.1 h)⟩

/-! ### PERMIT_HOLD (R157) -/

/-- An update of the lines reports what it takes to HOLD (R161, R162). -/
theorem refreshInterlock_holdReported (s : State) (lines : Vector AuxLine 4) :
    s.holdReported .lines { s with permit := { s.permit with aux := lines } }.refreshInterlock :=
  evaluate_holdReported (u := { s with permit := PermitUnit.formInterlock { s.permit with aux := lines } }) rfl rfl
    (State.reports_nil rfl rfl) fun _ h => absurd h List.not_mem_nil

/-- A change of supervision reports what it takes to HOLD, whatever other kinds occurred before it. -/
theorem setSupervision_holdReported {s u : State} {ds : List Detail} (ho : u.permit.outputs = s.permit.outputs) (ht : u.time = s.time)
    (h : s.reports u ds) (hk : ∀ d ∈ ds, d.kind ≠ .permitHold) (v : Supervision) : s.holdReported .supervision (u.setSupervision v) :=
  evaluate_holdReported (u := { u with permit := { u.permit with sup := v, rows := { u.permit.rows with supervision := v.stage.row } } })
    ho ht h hk

/-- The occurrences of an abort are of one kind. -/
theorem abortOp_reports (cause : AbortCause) (s : State) : s.reports (s.abortOp cause) (abortEvents cause s) := by
  have h0 : s.reports (abortState cause s) [] := State.reports_nil (by rw [abortState_events]) (by rw [abortState_events])
  exact h0.trans ((abortState cause s).raiseAll_reports (abortEvents cause s))

theorem superviseStop_holdReported (s : State) : s.holdReported .supervision (superviseStop s) := by
  let stop : Detail := .supervisionStop s.permit.sup.interval s.permit.sup.lastGood (s.op.slot.map Op.kind) s.time
  have hreports := (s.raise_reports stop).trans (abortOp_reports .supervision (s.raise stop))
  refine setSupervision_holdReported (by simp) (by simp) hreports (fun d hd => ?_) _
  rcases List.mem_append.1 hd with h | h
  · rw [List.mem_singleton.1 h]
    exact Kind.noConfusion
  · rw [kind_of_mem_abortEvents h]
    decide

theorem supervision_timerDue_iff (now : Time) (v : Supervision) :
    v.timerDue now = true ↔ v.timer = some now ∧ (v.stage = .normal ∨ v.stage = .warned) := by
  simp [Supervision.timerDue]

theorem supervisionTimerExpiry_normal {s : State} (ht : s.permit.sup.timer = some s.time) (h : s.permit.sup.stage = .normal) :
    supervisionTimerExpiry s = superviseWarn s := by
  unfold supervisionTimerExpiry
  rw [if_pos ((supervision_timerDue_iff _ _).2 ⟨ht, .inl h⟩), h]

theorem supervisionTimerExpiry_warned {s : State} (ht : s.permit.sup.timer = some s.time) (h : s.permit.sup.stage = .warned) :
    supervisionTimerExpiry s = superviseStop s := by
  unfold supervisionTimerExpiry
  rw [if_pos ((supervision_timerDue_iff _ _).2 ⟨ht, .inr h⟩), h]

theorem answerResume_stopped {s : State} (h : s.permit.sup.stage = .stopped) :
    answerResume s = .ok (s.setSupervision ({ s.permit.sup with stage := .normal }.restart s.time)) [1] := if_pos h

/-- Settles O43: the sources, then each command that evaluates with a report. -/
theorem permitHoldIsReported : Obligations.PermitHoldIsReported := by
  refine ⟨holdSources_getLsbD, fun raw run s hrun hdue => ⟨_, exec_scanCompletion hrun hdue, completeScan_holdReported run raw s⟩,
    fun tag m0 p0 m1 p1 m2 p2 m3 p3 s hs hm hp => ?lines, fun line s hmode hdue => ?edge, fun s hdue => ?expiry,
    fun tag s hs hstopped => ?resume⟩
  case lines =>
    have hms : ∀ i : Fin 4, (![m0, m1, m2, m3] i).toNat ≤ 3 := fun i => hm _ (by fin_cases i <;> simp)
    have hps : ∀ i : Fin 4, (![p0, p1, p2, p3] i).toNat ≤ 1 := fun i => hp _ (by fin_cases i <;> simp)
    obtain ⟨lines, hlines, _⟩ := configureLines_some hms hps s.permit.aux
    exact ⟨_, exec_replied (i := .setLines tag m0 p0 m1 p1 m2 p2 m3 p3) rfl rfl hs
      (answerSetLines_ok (m := ![m0, m1, m2, m3]) (p := ![p0, p1, p2, p3]) hlines), refreshInterlock_holdReported s lines⟩
  case edge =>
    refine ⟨auxDebounceExpiry line s, rfl, ?_⟩
    unfold auxDebounceExpiry edgeEffect
    rw [if_pos hdue]
    have hedge : (s.permit.aux[line].edge s.time).mode = .interlock := hmode
    rw [hedge]
    exact refreshInterlock_holdReported s _
  case expiry =>
    refine ⟨supervisionTimerExpiry s, rfl, ?_⟩
    obtain ⟨htimer, hstage | hstage⟩ := (supervision_timerDue_iff _ _).1 hdue
    · rw [supervisionTimerExpiry_normal htimer hstage]
      have hreports := s.raise_reports (.supervisionWarn s.permit.sup.interval s.permit.sup.lastGood s.time)
      refine setSupervision_holdReported (by simp) (by simp) hreports (fun d hd => ?_) _
      rw [List.mem_singleton.1 hd]
      exact Kind.noConfusion
    · rw [supervisionTimerExpiry_warned htimer hstage]
      exact superviseStop_holdReported s
  case resume =>
    exact ⟨_, exec_replied (i := .resume tag) rfl rfl hs (answerResume_stopped hstopped),
      setSupervision_holdReported rfl rfl (State.reports_nil rfl rfl) (fun _ h => absurd h List.not_mem_nil) _⟩

end Sys2Proof.Machine
end

section
/-! The outcomes of the permit unit's commands (R159 to R167). -/
namespace Sys2Proof.Machine

/-! ### The lines (R160 to R162) -/

/-- The INTERLOCK row by the lines' condition, as one expression. -/
theorem refreshInterlock_rows {s : State} {c : Prop} [Decidable c] (h : c ↔ ∃ i : Fin 4, s.permit.aux[i].mode = .interlock
    ∧ s.permit.aux[i].level ≠ s.permit.aux[i].activeHigh) :
    s.refreshInterlock.permit.rows = { s.permit.rows with interlock := if c then rowHold else rowNone } := by
  obtain ⟨hrows, _, hhold, hnone⟩ := refreshInterlock_row s
  rw [hrows]
  split
  · next hc => rw [hhold (h.1 hc)]
  · next hc => rw [hnone (mt h.2 hc)]

theorem auxDebounceExpiry_of_due {s : State} {line : Fin 4} (h : s.permit.aux[line].debounceDue s.time = true) :
    auxDebounceExpiry line s = edgeEffect line (s.permit.aux[line].edge s.time) s := if_pos h

/-- What an edge does, by the line's mode (R161). -/
theorem edgeEffect_of_mode {s : State} {line : Fin 4} {a : AuxLine} :
    (a.mode = .off → edgeEffect line a s = s.setAux line a)
    ∧ (a.mode = .state → edgeEffect line a s = (s.setAux line a).raise (.lineState line a.level a.active s.time))
    ∧ (a.mode = .interlock → edgeEffect line a s = interlockEdges s)
    ∧ (a.mode = .mark → edgeEffect line a s =
        { s.setAux line a with tracker := if a.active then s.tracker.markLift else s.tracker }) := by
  refine ⟨fun h => ?_, fun h => ?_, fun h => ?_, fun h => ?_⟩ <;> simp only [edgeEffect, h]

/-- Settles O44: the request, then the input and its edge in each mode. -/
theorem auxLineCommandsOutcome : Obligations.AuxLineCommandsOutcome := by
  intro s row
  refine ⟨fun tag m p hs => ?setLines, fun line => ?edge⟩
  case setLines =>
    intro cmd bad
    have reply {t : State} {status : Status} {results : List Byte}
        (ha : answerSetLines (m 0) (p 0) (m 1) (p 1) (m 2) (p 2) (m 3) (p 3) s = ⟨t, status, results, 0, .nothing⟩) :
        exec cmd s = .next (t.replied tag 0x59 status results) := exec_replied (i := cmd) rfl rfl hs ha
    refine ⟨fun ⟨i, hi⟩ => reply ?range, fun hgood => ?written⟩
    case range =>
      unfold answerSetLines
      rw [configureLines_none hi]
      rfl
    case written =>
      have hm : ∀ i, (m i).toNat ≤ 3 := fun i => not_lt.1 fun h => hgood ⟨i, .inl h⟩
      have hp : ∀ i, (p i).toNat ≤ 1 := fun i => not_lt.1 fun h => hgood ⟨i, .inr h⟩
      obtain ⟨lines, hlines, hline⟩ := configureLines_some hm hp s.permit.aux
      let u := { s with permit := { s.permit with aux := lines } }
      exact ⟨u.refreshInterlock, reply (answerSetLines_ok hlines), hline, refreshInterlock_rows (s := u) Iff.rfl, rfl, rfl, rfl⟩
  case edge =>
    intro a put b dueNow
    have expires (hdue : dueNow) : exec (.auxDebounceExpiry line) s = .next (edgeEffect line b s) :=
      congrArg Host.Outcome.next (auxDebounceExpiry_of_due ((debounceDue_iff _ _).2 hdue))
    obtain ⟨hoff, hstate, hinterlock, hmark⟩ := edgeEffect_of_mode (s := s) (line := line) (a := b)
    refine ⟨fun high => ?input, fun hnot => ?early, fun hdue hmode => (expires hdue).trans (congrArg _ (hoff hmode)),
      fun hdue hmode => (expires hdue).trans (congrArg _ (hstate hmode)), fun hdue hmode => ?mark, fun hdue hmode => ?interlock⟩
    case input => exact congrArg Host.Outcome.next rfl
    case early =>
      have hearly : auxDebounceExpiry line s = s := if_neg (mt (debounceDue_iff _ _).1 hnot)
      exact congrArg Host.Outcome.next hearly
    case mark =>
      rw [expires hdue, hmark hmode]
      have hactive : b.active = true ↔ a.input = a.activeHigh := by simp [AuxLine.active, b]
      by_cases h : a.input = a.activeHigh
      · rw [if_pos h, if_pos (hactive.2 h)]
        rfl
      · rw [if_neg h, if_neg (mt hactive.1 h)]
        rfl
    case interlock =>
      let edges := { s with permit := { s.permit with aux := Vector.ofFn fun i : Fin 4 => s.permit.aux[i].interlockEdge s.time } }
      refine ⟨interlockEdges s, (expires hdue).trans (congrArg _ (hinterlock hmode)), fun i => ?_,
        refreshInterlock_rows (s := edges) Iff.rfl, rfl, rfl, rfl⟩
      exact (interlockEdges_aux s i).trans (interlockEdge_eq s.time s.permit.aux[i])

/-! ### Supervision (R164 to R167) -/

theorem intervalOk_iff (n : Nat) : intervalOk n = true ↔ n = 0 ∨ (100 ≤ n ∧ n ≤ 5000 ∧ n % 100 = 0) := by
  simp only [intervalOk, Bool.and_eq_true, beq_iff_eq, decide_eq_true_eq]
  omega

/-- What a change of supervision leaves, whatever it reports (R156). -/
theorem setSupervision_fields (v : Supervision) (s : State) : (s.setSupervision v).permit =
    { s.permit with
      sup := v
      rows := { s.permit.rows with supervision := v.stage.row }
      outputs := ({ s.permit.rows with supervision := v.stage.row } : Contributions).combine } := rfl

/-- SUPERVISION_WARN stands in the detail table after the change of supervision, which can only report PERMIT_HOLD. -/
theorem setSupervision_detail (v : Supervision) (s : State) {k : Kind} (hk : k ≠ .permitHold) :
    (s.setSupervision v).events.detail k = s.events.detail k := by
  let p : PermitUnit := { s.permit with sup := v, rows := { s.permit.rows with supervision := v.stage.row } }
  have hreports : s.reports (s.setSupervision v) (p.holdEvent .supervision s.time) :=
    State.raiseAll_reports { s with permit := p.evaluate } (p.holdEvent .supervision s.time)
  exact (hreports.silent fun d hd h => hk (h.symm.trans (kind_of_mem_holdEvent hd))).1

/-- What an abort is does not depend on the event unit. -/
theorem abortState_raise (cause : AbortCause) (s : State) (d : Detail) :
    abortState cause (s.raise d) = { abortState cause s with events := (s.raise d).events } := by
  unfold abortState abortDetail
  cases hs : s.op.slot with
  | none => simp [hs, State.raise]
  | some o => cases o <;> simp [hs, State.raise]

/-- What occurs when supervision stops the crane: SUPERVISION_STOP, the OP_DONE of an abort, and what the evaluation reports (R165). -/
theorem superviseStop_reports (s : State) : ∃ held, s.reports (superviseStop s)
      ([.supervisionStop s.permit.sup.interval s.permit.sup.lastGood (s.op.slot.map Op.kind) s.time] ++ abortEvents .supervision s ++ held)
    ∧ ∀ d ∈ held, d.kind = .permitHold := by
  let stop : Detail := .supervisionStop s.permit.sup.interval s.permit.sup.lastGood (s.op.slot.map Op.kind) s.time
  let p := (s.raise stop).abortOp .supervision
  let q : PermitUnit := { p.permit with
    sup := { s.permit.sup with stage := .stopped, timer := none }
    rows := { p.permit.rows with supervision := rowHold } }
  exact ⟨q.holdEvent .supervision p.time,
    ((s.raise_reports stop).trans (abortOp_reports .supervision (s.raise stop))).trans
      (State.raiseAll_reports { p with permit := q.evaluate } (q.holdEvent .supervision p.time)),
    fun _ => kind_of_mem_holdEvent⟩

/-- The operation's part of a stop is the abort (R143, R165). -/
theorem superviseStop_blocks (s : State) : (superviseStop s).op = (abortState .supervision s).op
    ∧ (superviseStop s).weigh = (abortState .supervision s).weigh ∧ (superviseStop s).scanner = (abortState .supervision s).scanner := by
  have habort := abortState_raise .supervision s
    (.supervisionStop s.permit.sup.interval s.permit.sup.lastGood (s.op.slot.map Op.kind) s.time)
  have hop := congrArg State.op habort
  have hweigh := congrArg State.weigh habort
  have hscanner := congrArg State.scanner habort
  exact ⟨hop, hweigh, hscanner⟩

theorem superviseStop_aborts (s : State) : s.aborts .supervision (superviseStop s) := by
  obtain ⟨held, hreports, hheld⟩ := superviseStop_reports s
  obtain ⟨hop, hweigh, hscanner⟩ := superviseStop_blocks s
  refine hreports.aborts ?_ hop hweigh hscanner
  rw [List.filter_append, List.filter_append, filter_kind_of_eq fun _ => kind_of_mem_abortEvents, filter_kind_of_eq hheld, if_pos rfl,
    if_neg (by decide), List.append_nil]
  rfl

theorem superviseStop_detail (s : State) : (superviseStop s).events.detail .supervisionStop =
    some (.supervisionStop s.permit.sup.interval s.permit.sup.lastGood (s.op.slot.map Op.kind) s.time) := by
  obtain ⟨held, hreports, hheld⟩ := superviseStop_reports s
  have hstop := (hreports .supervisionStop).1
  rw [List.filter_append, List.filter_append, filter_kind_of_eq fun _ => kind_of_mem_abortEvents, filter_kind_of_eq hheld,
    if_neg (by decide), if_neg (by decide), List.append_nil, List.append_nil] at hstop
  exact hstop

theorem superviseStop_permit (s : State) : (superviseStop s).permit = { s.permit with
    sup := { s.permit.sup with stage := .stopped, timer := none }
    rows := { s.permit.rows with supervision := rowHold }
    outputs := ({ s.permit.rows with supervision := rowHold } : Contributions).combine } := by
  unfold superviseStop
  rw [setSupervision_fields, abortOp_permit]
  rfl

/-- After an abort the slot is IDLE (R143). -/
theorem abortState_idle (cause : AbortCause) (s : State) : (abortState cause s).op.slot = none := by
  rw [abortState_op]
  cases hs : s.op.slot with
  | none => exact hs
  | some o => rfl

/-- Settles O45: the two requests, then the expiry in each stage. -/
theorem supervisionCommandsOutcome : Obligations.SupervisionCommandsOutcome := by
  intro s sup
  refine ⟨fun tag interval hs => ?requests, fun hnot => ?early, fun htimer hstage => ?warn, fun htimer hstage => ?stop⟩
  case requests =>
    intro n good
    have set {t : State} {status : Status} {results : List Byte} (ha : answerSetSupervision interval s = ⟨t, status, results, 0, .nothing⟩) :
        exec (.setSupervision tag interval) s = .next (t.replied tag 0x5B status results) :=
      exec_replied (i := .setSupervision tag interval) rfl rfl hs ha
    have resume {t : State} {status : Status} {results : List Byte} (ha : answerResume s = ⟨t, status, results, 0, .nothing⟩) :
        exec (.resume tag) s = .next (t.replied tag 0x5C status results) := exec_replied (i := .resume tag) rfl rfl hs ha
    refine ⟨fun hstop => set (if_pos hstop), fun hrun hbad => set ?range, fun hrun hgood => ?written,
      fun hrun => resume (if_neg hrun), fun hstop => ⟨_, resume (answerResume_stopped hstop), rfl, rfl, rfl, rfl, rfl⟩⟩
    case range =>
      unfold answerSetSupervision
      rw [if_neg hrun, if_pos (show (!intervalOk n) = true by simpa using mt (intervalOk_iff n).1 hbad)]
      rfl
    case written =>
      intro v
      have hset : sup.set n s.time = v := by
        unfold Supervision.set
        by_cases h0 : n = 0
        · simp only [v, if_pos h0]
        · simp only [v, if_neg h0]
          rfl
      have hrow : v.stage.row = rowNone := by
        by_cases h0 : n = 0
        · simp only [v, if_pos h0, Stage.row]
        · simp only [v, if_neg h0, Stage.row]
      have hinterval : v.interval = n := by
        by_cases h0 : n = 0
        · simp only [v, if_pos h0, h0]
        · simp only [v, if_neg h0]
      refine ⟨s.setSupervision v, set ?_, rfl, ?_, rfl, rfl, rfl⟩
      · unfold answerSetSupervision
        rw [if_neg hrun, if_neg (show ¬(!intervalOk n) = true by simpa using (intervalOk_iff n).2 hgood)]
        rw [← hset] at hinterval ⊢
        show Answer.ok _ (be 2 (sup.set n s.time).interval ++ _) = _
        rw [hinterval]
        rfl
      · rw [setSupervision_fields]
        simp only [hrow]
        rfl
  case early =>
    have hearly : supervisionTimerExpiry s = s := if_neg fun h => by
      obtain ⟨htimer, hstage⟩ := (supervision_timerDue_iff _ _).1 h
      rcases hnot with h | h | h
      · exact h htimer
      · rcases hstage with hs | hs <;> cases h.symm.trans hs
      · rcases hstage with hs | hs <;> cases h.symm.trans hs
    exact congrArg Host.Outcome.next hearly
  case warn =>
    refine ⟨superviseWarn s, congrArg Host.Outcome.next (supervisionTimerExpiry_normal htimer hstage), rfl, rfl, rfl, rfl, ?_, rfl⟩
    unfold superviseWarn
    rw [setSupervision_detail _ _ (by decide)]
    exact (s.raise_reports (.supervisionWarn sup.interval sup.lastGood s.time) .supervisionWarn).1
  case stop =>
    have hstops := supervisionTimerExpiry_warned htimer hstage
    have hpermit := superviseStop_permit s
    have hframe := supervisionTimerExpiry_frame s
    rw [hstops] at hframe
    refine ⟨superviseStop s, congrArg Host.Outcome.next hstops, ?_, ?_, ?_, ?_, superviseStop_detail s, ?_,
      superviseStop_aborts s, hframe⟩
    · rw [hpermit]
    · rw [hpermit]
      rfl
    · rw [hpermit]
    · rw [hpermit]
    · rw [(superviseStop_blocks s).1, abortState_idle]

end Sys2Proof.Machine
end

section
/-! The link reset (R37, R138, R143, R168, R179, R190, R191) as one outcome, block by block. -/
namespace Sys2Proof.Machine

/-! ### The record queue and the event unit at a link reset -/

namespace RecordQueue

/-- A link reset changes no count of records (R138). -/
theorem linkReset_counts (keep : Bool) (q : RecordQueue) : (q.linkReset keep).lifts = q.lifts ∧ (q.linkReset keep).loads = q.loads
    ∧ (q.linkReset keep).records.length = q.records.length := by
  have hrecords : (q.linkReset keep).records.map HeldRecord.record = q.records.map HeldRecord.record := by
    simp [linkReset, Function.comp_def]
  refine ⟨?_, ?_, ?_⟩
  · simp only [lifts_eq, hrecords]
  · simp only [loads_eq, hrecords]
  · simp [linkReset]

end RecordQueue

/-- RECORDS_READY after a link reset, in POLLED (R134, R138). -/
theorem settingReady_linkReset (keep : Bool) (q : RecordQueue) (now : Time) : settingReady .reset (q.linkReset keep) now =
    if (q.linkReset keep).mode = .polled ∧ ((q.linkReset keep).threshold ≤ q.records.length ∨ q.loads ≠ 0)
    then [.recordsReady .reset q.lifts q.loads now] else [] := by
  obtain ⟨hlifts, hloads, hlength⟩ := q.linkReset_counts keep
  rw [settingReady_eq, hlifts, hloads, hlength]

/-- Occurrences change neither mode nor mask. -/
theorem foldl_raise_settings (sending : Bool) (ds : List Detail) (e : EventUnit) :
    (ds.foldl (EventUnit.raise sending) e).mode = e.mode ∧ (ds.foldl (EventUnit.raise sending) e).mask = e.mask := by
  induction ds generalizing e with
  | nil => exact ⟨rfl, rfl⟩
  | cons d ds ih =>
    obtain ⟨hmode, hmask⟩ := ih (e.raise sending d)
    rw [List.foldl_cons]
    exact ⟨hmode.trans (EventUnit.raise_mode ..), hmask.trans (EventUnit.raise_mask ..)⟩

/-- The event unit after a link reset is one that has RESTARTED and settles, with what other blocks raise after it (R179). -/
theorem linkReset_eventUnit (cause : StartCause) (s : State) : ∃ (e : EventUnit) (later : List Detail),
    e.queue = [] ∧ e.armed = true
    ∧ e.mode = (if s.link.keep then s.events.mode else .itemized) ∧ e.mask = (if s.link.keep then s.events.mask else powerOnMask)
    ∧ (linkReset cause s).events.mode = e.mode ∧ (linkReset cause s).events.mask = e.mask
    ∧ (∀ k, e.isPending k = (s.events.isPending k || s.events.hasNotice k || k == .restarted))
    ∧ (∀ k, e.count k = if k = .restarted then satInc 255 (s.events.count k) else s.events.count k)
    ∧ (∀ k, e.detail k = if k = .restarted then some (.restarted cause s.link.keep s.time) else s.events.detail k)
    ∧ (∀ d ∈ later, d.kind ∈ [.opDone, .recordsReady, .permitHold])
    ∧ (linkReset cause s).events = later.foldl (EventUnit.raise false) (e.settle false) := by
  obtain ⟨e, he, hqueue, harmed, hmode, hmask, hpending, hcount, hdetail⟩ := EventUnit.linkReset_eq cause s.link.keep s.time s.events
  obtain ⟨later, hlater, hevents⟩ := linkReset_events cause s
  rw [he] at hevents
  obtain ⟨hmode', hmask'⟩ := foldl_raise_settings false later (e.settle false)
  rw [← hevents, EventUnit.settle_mode] at hmode'
  rw [← hevents, EventUnit.settle_mask] at hmask'
  exact ⟨e, later, hqueue, harmed, hmode, hmask, hmode', hmask', hpending, hcount, hdetail, hlater, hevents⟩

/-! ### Supervision at a link reset (R168) -/

theorem supervisionLinkReset_timed {s : State} (h : s.permit.sup.stage = .normal ∨ s.permit.sup.stage = .warned) :
    s.supervisionLinkReset.permit.sup =
      { s.permit.sup with stage := .normal, timer := some (s.time + BitVec.ofNat 32 s.permit.sup.interval) } := by
  unfold State.supervisionLinkReset
  rcases h with h | h
  · rw [h]
    show s.permit.sup.restart s.time = _
    rw [← h]
    rfl
  · rw [h]
    rfl

theorem supervisionLinkReset_untimed {s : State} (h : ¬(s.permit.sup.stage = .normal ∨ s.permit.sup.stage = .warned)) :
    s.supervisionLinkReset.permit.sup = s.permit.sup := by
  unfold State.supervisionLinkReset
  cases hs : s.permit.sup.stage with
  | off => rfl
  | normal => exact absurd (.inl hs) h
  | warned => exact absurd (.inr hs) h
  | stopped => rfl

/-- WARNED loses its row, and the outputs are evaluated (R168). -/
theorem supervisionLinkReset_warned {s : State} (h : s.permit.sup.stage = .warned) :
    s.supervisionLinkReset.permit.rows = { s.permit.rows with supervision := .const .free }
      ∧ s.supervisionLinkReset.permit.outputs = s.supervisionLinkReset.permit.rows.combine := by
  unfold State.supervisionLinkReset
  rw [h]
  exact ⟨rfl, rfl⟩

theorem supervisionLinkReset_not_warned {s : State} (h : s.permit.sup.stage ≠ .warned) :
    s.supervisionLinkReset.permit.rows = s.permit.rows ∧ s.supervisionLinkReset.permit.outputs = s.permit.outputs := by
  unfold State.supervisionLinkReset
  cases hs : s.permit.sup.stage with
  | off => exact ⟨rfl, rfl⟩
  | normal => exact ⟨rfl, rfl⟩
  | warned => exact absurd hs h
  | stopped => exact ⟨rfl, rfl⟩

/-! ### The outcome -/

theorem linkReset_aborts (cause : StartCause) (s : State) : s.aborts .linkReset (linkReset cause s) := by
  obtain ⟨ds, hreports, hkind⟩ := linkReset_reports cause s
  refine hreports.aborts ?_ (linkReset_op cause s) (linkReset_weigh cause s) (linkReset_scanner cause s)
  rw [hkind _ (by decide), if_neg (by decide), if_pos rfl, if_neg (by decide), List.nil_append, List.append_nil]

/-- Settles O4. -/
theorem lineBreakResetsTheLink : Obligations.LineBreakResetsTheLink := by
  refine ⟨fun held s => ⟨fun hshort => ?short, fun hlong => ?long⟩, fun cause s => ?reset⟩
  case short => exact congrArg Host.Outcome.next (if_neg (not_le.2 hshort))
  case long => exact congrArg Host.Outcome.next (if_pos hlong)
  case reset =>
    intro t sup timed
    obtain ⟨ds, hreports, hkind⟩ := linkReset_reports cause s
    obtain ⟨e, later, hqueue, harmed, hmode, hmask, hmode', hmask', hpending, hcount, hdetail, hlater, hevents⟩ :=
      linkReset_eventUnit cause s
    have hrecords : t.records = s.records.linkReset s.link.keep := linkReset_records cause s
    have hpermit : t.permit = s.supervisionLinkReset.permit := linkReset_permit cause s
    rw [hrecords, hpermit]
    refine ⟨linkReset_link cause s, linkReset_table cause s, rfl, rfl, rfl, rfl, ?idle, linkReset_aborts cause s, hmode'.trans hmode,
      hmask'.trans hmask, hreports.occurred ?restarted, hreports.occursIff (fun hready => ?ready) (fun hnot => ?notReady),
      fun kind hother => ?silent, ⟨e, later, hqueue, harmed, hmode'.symm, hmask'.symm, hpending, hcount, hdetail, hlater, hevents⟩,
      supervisionLinkReset_timed, supervisionLinkReset_untimed, supervisionLinkReset_warned, supervisionLinkReset_not_warned,
      supervisionLinkReset_aux s, linkReset_time cause s, linkReset_tracker cause s, linkReset_zones cause s, linkReset_tally cause s,
      linkReset_pose cause s⟩
    case idle => rw [linkReset_op, abortState_idle]
    case restarted =>
      refine (hkind .restarted (by decide)).trans ?_
      rw [if_pos rfl, if_neg (by decide), if_neg (by decide)]
      rfl
    case ready =>
      refine (hkind .recordsReady (by decide)).trans ?_
      rw [if_neg (by decide), if_neg (by decide), if_pos rfl, settingReady_linkReset, if_pos hready]
      rfl
    case notReady =>
      refine (hkind .recordsReady (by decide)).trans ?_
      rw [if_neg (by decide), if_neg (by decide), if_pos rfl, settingReady_linkReset, if_neg hnot]
      rfl
    case silent =>
      simp only [List.mem_cons, List.not_mem_nil, or_false, not_or] at hother
      obtain ⟨hrestarted, hdone, hready, hhold⟩ := hother
      have hnone := hkind kind hhold
      rw [if_neg hrestarted, if_neg hdone, if_neg hready] at hnone
      have hsilent := hreports kind
      rw [hnone] at hsilent
      exact hsilent

end Sys2Proof.Machine
end

section
/-! The event unit (R169 to R177): an occurrence, settling, and the requests. -/
namespace Sys2Proof.Machine

namespace EventUnit

/-! ### What an occurrence writes (R169, R170) -/

theorem prio_val_ne {j k : Kind} (h : j ≠ k) : ¬k.prio.val = j.prio.val :=
  fun he => h (Kind.prio_injective (Fin.ext he.symm))

section
variable (sending : Bool) (e : EventUnit) (d : Detail)

theorem raise_detail (j : Kind) : (e.raise sending d).detail j = if j = d.kind then some d else e.detail j := by
  unfold detail
  rw [raise_details]
  split
  · next h => subst h; exact Vector.getElem_set_self _
  · next h => exact Vector.getElem_set_ne _ _ (prio_val_ne h)

theorem raise_count (j : Kind) : (e.raise sending d).count j = if j = d.kind then satInc 255 (e.count j) else e.count j := by
  unfold count
  rw [raise_counts]
  split
  · next h => subst h; exact Vector.getElem_set_self _
  · next h => exact Vector.getElem_set_ne _ _ (prio_val_ne h)

theorem occur_isPending (j : Kind) : (e.occur d).isPending j = (e.isPending j || j == d.kind) := isPending_setPending e d.kind j

/-- The raised set with an occurrence in it is empty when it was and the kind is not enabled. -/
theorem occur_raised_iff : (e.occur d).raised ≠ 0 ↔ e.raised ≠ 0 ∨ e.isEnabled d.kind = true := by
  have henabled : ∀ k, (e.occur d).isEnabled k = e.isEnabled k := fun _ => rfl
  rw [← not_iff_not, not_or, not_not, not_not, raised_eq_zero_iff, raised_eq_zero_iff, Bool.not_eq_true]
  simp only [occur_isPending, henabled, Bool.or_eq_true, beq_iff_eq]
  exact ⟨fun h => ⟨fun k hk => h k (.inl hk), h _ (.inr rfl)⟩, fun ⟨h, hk⟩ k => fun | .inl hp => h k hp | .inr he => he ▸ hk⟩

end

/-! ### An occurrence in ITEMIZED (R173) -/

section
variable {sending : Bool} {e : EventUnit} {d : Detail} (hmode : e.mode = .itemized)
  (hfull : 8 ≤ e.queue.length ∨ ∀ j, e.isPending j = true → e.isEnabled j = true → e.hasNotice j = true)
include hmode hfull

omit hmode in
/-- With a place free only the kind that occurs can wait for it. -/
theorem occur_waits {j : Kind} (hroom : e.queue.length < 8) (h : (e.occur d).waits j) : j = d.kind := by
  obtain ⟨hpending, henabled, hnotice⟩ := h
  rw [occur_isPending, Bool.or_eq_true, beq_iff_eq] at hpending
  refine hpending.resolve_left fun hp => ?_
  have hhas := hfull.resolve_left (not_le.2 hroom) j hp henabled
  exact Bool.noConfusion (hnotice.symm.trans hhas)

/-- The kind takes a free place of the queue, and its pending bit is cleared. -/
theorem raise_takesPlace (henabled : e.isEnabled d.kind = true) (hnotice : e.hasNotice d.kind = false) (hroom : e.queue.length < 8) :
    (e.raise sending d).queue = e.queue ++ [.event d.kind]
      ∧ ∀ j, (e.raise sending d).isPending j = (e.isPending j && j != d.kind) := by
  have hwaits : (e.occur d).waits d.kind := ⟨by rw [occur_isPending]; simp, henabled, hnotice⟩
  have hfirst : ∀ j : Kind, j.prio < d.kind.prio → ¬(e.occur d).waits j := fun j hj hw => by
    rw [occur_waits hfull hroom hw] at hj
    exact absurd hj (lt_irrefl _)
  let p := ({ e.occur d with queue := e.queue ++ [.event d.kind] } : EventUnit).clearPending d.kind
  have hpending : ∀ j, p.isPending j = (e.isPending j && j != d.kind) := fun j => by
    refine (isPending_clearPending _ _ j).trans ?_
    show ((e.occur d).isPending j && j != d.kind) = _
    rw [occur_isPending, bne]
    cases e.isPending j <;> cases j == d.kind <;> rfl
  have hstops : ∀ j, ¬p.waits j := fun j ⟨hp, he, hn⟩ => by
    rw [hpending, Bool.and_eq_true, bne_iff_ne] at hp
    have hold : e.hasNotice j = false := by
      have hqueue : (e.queue ++ [Notice.event d.kind]).contains (.event j) = false := hn
      rw [List.contains_append, Bool.or_eq_false_iff] at hqueue
      exact hqueue.1
    exact hp.2 (occur_waits hfull hroom (d := d) ⟨by rw [occur_isPending, hp.1]; rfl, he, hold⟩)
  have hsettle : e.raise sending d = { p with armed := if p.raised = 0 then true else p.armed } := by
    unfold raise
    rw [settle_next (e := e.occur d) hmode hroom hwaits hfirst]
    exact settle_stops (e := p) hmode (.inr hstops) sending
  rw [hsettle]
  exact ⟨rfl, hpending⟩

/-- Without a place for it the kind stays pending. -/
theorem raise_waits (h : ¬(e.isEnabled d.kind = true ∧ e.hasNotice d.kind = false ∧ e.queue.length < 8)) :
    (e.raise sending d).queue = e.queue ∧ ∀ j, (e.raise sending d).isPending j = (e.isPending j || j == d.kind) := by
  have hstops : 8 ≤ (e.occur d).queue.length ∨ ∀ j, ¬(e.occur d).waits j := by
    by_cases hroom : e.queue.length < 8
    · refine .inr fun j hw => h ?_
      have hj := occur_waits hfull hroom hw
      obtain ⟨_, henabled, hnotice⟩ := hw
      rw [hj] at henabled hnotice
      exact ⟨henabled, hnotice, hroom⟩
    · exact .inl (not_lt.1 hroom)
  have hsettle : e.raise sending d = { e.occur d with armed := if (e.occur d).raised = 0 then true else (e.occur d).armed } :=
    settle_stops (e := e.occur d) hmode hstops sending
  rw [hsettle]
  exact ⟨rfl, occur_isPending e d⟩

end

/-! ### An occurrence in SUMMARY (R175) -/

theorem withdrawAttention_eq (sending : Bool) (q : List Notice) : withdrawAttention sending q =
    if sending then q.take 1 ++ (q.drop 1).filter (· != .attention) else q.filter (· != .attention) := by
  cases sending <;> cases q <;> rfl

section
variable {sending : Bool} {e : EventUnit} {d : Detail} (hmode : e.mode = .summary)
include hmode

theorem raise_summary : e.raise sending d =
    if (e.occur d).raised = 0 then { e.occur d with armed := true, queue := withdrawAttention sending e.queue }
    else if e.armed = true ∧ Notice.attention ∉ e.queue then { e.occur d with armed := false, queue := e.queue ++ [.attention] }
    else e.occur d := settle_summary (e := e.occur d) hmode sending

theorem raise_summary_isPending (j : Kind) : (e.raise sending d).isPending j = (e.isPending j || j == d.kind) := by
  rw [raise_summary hmode, ← occur_isPending]
  split
  · rfl
  · split <;> rfl

end

end EventUnit

/-- An occurrence, mode by mode. -/
theorem eventUnit_raise (d : Detail) (e : EventUnit) (sending : Bool) :
    let k := d.kind
    let u := e.raise sending d
    u.detail k = some d ∧ (∀ j, j ≠ k → u.detail j = e.detail j)
      ∧ u.count k = (if e.count k < 255 then e.count k + 1 else e.count k) ∧ (∀ j, j ≠ k → u.count j = e.count j)
      ∧ u.mask = e.mask ∧ u.mode = e.mode
      ∧ (e.mode = .itemized →
          (8 ≤ e.queue.length ∨ ∀ j, e.isPending j = true → e.isEnabled j = true → e.hasNotice j = true) →
          let takesPlace := e.isEnabled k = true ∧ e.hasNotice k = false ∧ e.queue.length < 8
          (∀ j, j ≠ k → u.isPending j = e.isPending j)
            ∧ (takesPlace → u.queue = e.queue ++ [.event k] ∧ u.isPending k = false)
            ∧ (¬takesPlace → u.queue = e.queue ∧ u.isPending k = true))
      ∧ (e.mode = .summary →
          let raised := e.raised ≠ 0 ∨ e.isEnabled k = true
          let joins := raised ∧ e.armed = true ∧ Notice.attention ∉ e.queue
          (∀ j, u.isPending j = (e.isPending j || j == k))
            ∧ (joins → u.queue = e.queue ++ [.attention] ∧ u.armed = false)
            ∧ (raised → ¬joins → u.queue = e.queue ∧ u.armed = e.armed)
            ∧ (¬raised → u.armed = true ∧ u.queue = (if sending then
                e.queue.take 1 ++ (e.queue.drop 1).filter (· != .attention) else e.queue.filter (· != .attention)))) := by
  intro k u
  refine ⟨(e.raise_detail sending d k).trans (if_pos rfl), fun j hj => (e.raise_detail sending d j).trans (if_neg hj),
    (e.raise_count sending d k).trans (if_pos rfl), fun j hj => (e.raise_count sending d j).trans (if_neg hj),
    EventUnit.raise_mask .., EventUnit.raise_mode .., fun hmode hfull => ?itemized, fun hmode => ?summary⟩
  case itemized =>
    intro takesPlace
    refine ⟨fun j hj => ?_, fun ⟨henabled, hnotice, hroom⟩ => ?_, fun hwaits => ?_⟩
    · by_cases h : takesPlace
      · obtain ⟨henabled, hnotice, hroom⟩ := h
        rw [(EventUnit.raise_takesPlace hmode hfull henabled hnotice hroom).2 j]
        simp [k, hj]
      · rw [(EventUnit.raise_waits hmode hfull h).2 j]
        simp [k, hj]
    · obtain ⟨hqueue, hpending⟩ := EventUnit.raise_takesPlace (sending := sending) hmode hfull henabled hnotice hroom
      exact ⟨hqueue, by rw [hpending]; simp [k]⟩
    · obtain ⟨hqueue, hpending⟩ := EventUnit.raise_waits (sending := sending) hmode hfull hwaits
      exact ⟨hqueue, by rw [hpending]; simp [k]⟩
  case summary =>
    intro raised joins
    have hu : u = _ := EventUnit.raise_summary hmode
    have hraised : ¬(e.occur d).raised = 0 ↔ raised := EventUnit.occur_raised_iff e d
    refine ⟨EventUnit.raise_summary_isPending hmode, fun ⟨hr, harmed, hqueue⟩ => ?_, fun hr hnot => ?_, fun hr => ?_⟩
    · rw [hu, if_neg (hraised.2 hr), if_pos ⟨harmed, hqueue⟩]
      exact ⟨rfl, rfl⟩
    · rw [hu, if_neg (hraised.2 hr), if_neg fun h => hnot ⟨hr, h⟩]
      exact ⟨rfl, rfl⟩
    · rw [hu, if_pos (not_not.1 (mt hraised.1 hr)), ← EventUnit.withdrawAttention_eq]
      exact ⟨rfl, rfl⟩

/-- Settling, mode by mode. -/
theorem eventUnit_settle (e : EventUnit) (sending : Bool) : (e.settle sending).settled
      ∧ (e.mode = .itemized →
        (∀ k : Kind, e.queue.length < 8 → e.waits k → (∀ j : Kind, j.prio < k.prio → ¬e.waits j) →
            e.settle sending = (({ e with queue := e.queue ++ [.event k] } : EventUnit).clearPending k).settle sending)
          ∧ (8 ≤ e.queue.length ∨ (∀ k, ¬e.waits k) →
              e.settle sending = { e with armed := if e.raised = 0 then true else e.armed }))
      ∧ (e.mode = .summary →
        (e.raised = 0 → e.settle sending = { e with armed := true, queue := (if sending then
            e.queue.take 1 ++ (e.queue.drop 1).filter (· != .attention) else e.queue.filter (· != .attention)) })
          ∧ (e.raised ≠ 0 → e.armed = true → Notice.attention ∉ e.queue →
              e.settle sending = { e with armed := false, queue := e.queue ++ [.attention] })
          ∧ (e.raised ≠ 0 → e.armed = false ∨ Notice.attention ∈ e.queue → e.settle sending = e)) := by
  refine ⟨EventUnit.settle_settled sending e, fun hmode => ⟨fun k hroom hwaits hfirst => EventUnit.settle_next hmode hroom hwaits hfirst _,
    fun hstops => EventUnit.settle_stops hmode hstops _⟩, fun hmode => ⟨fun hr => ?_, fun hr harmed hqueue => ?_, fun hr hnot => ?_⟩⟩
  all_goals rw [EventUnit.settle_summary hmode]
  · rw [if_pos hr, EventUnit.withdrawAttention_eq]
  · rw [if_neg hr, if_pos ⟨harmed, hqueue⟩]
  · refine (if_neg hr).trans (if_neg fun ⟨harmed, hqueue⟩ => ?_)
    rcases hnot with h | h
    · exact Bool.noConfusion (h.symm.trans harmed)
    · exact hqueue h

/-- Settles O46. -/
theorem occurrenceReachesTheEventUnit : Obligations.OccurrenceReachesTheEventUnit :=
  ⟨fun _ _ => rfl, eventUnit_raise, eventUnit_settle⟩

end Sys2Proof.Machine
end

section
/-! SET_EVENTS and GET_EVENTS (R176, R177). -/
namespace Sys2Proof.Machine

theorem eventModeOf_code (m : EventMode) : eventModeOf m.code = some m := by cases m <;> rfl

namespace EventUnit

/-! ### SET_EVENTS (R176) -/

/-- The event unit with mode and mask written, before it settles: a change of mode drops what is not being transmitted. -/
def changed (sending : Bool) (m : EventMode) (mask : BitVec 16) (e : EventUnit) : EventUnit :=
  let kept := if m = e.mode then e
    else { e.repend (if sending then e.queue.drop 1 else e.queue) with
      queue := if sending then e.queue.take 1 else [], armed := if m = .summary then true else e.armed }
  { kept with mode := m, mask := mask }

theorem setModeMask_eq (sending : Bool) (m : EventMode) (mask : BitVec 16) (e : EventUnit) :
    e.setModeMask sending m mask = (e.changed sending m mask).settle sending := rfl

section
variable (sending : Bool) (m : EventMode) (mask : BitVec 16) (e : EventUnit)

theorem changed_of_same (h : m = e.mode) : e.changed sending m mask = { e with mask := mask } := by
  subst h
  unfold changed
  rw [if_pos rfl]

theorem changed_of_change (h : m ≠ e.mode) : e.changed sending m mask =
    { e.repend (if sending then e.queue.drop 1 else e.queue) with
      queue := if sending then e.queue.take 1 else [], armed := if m = .summary then true else e.armed, mode := m, mask := mask } := by
  unfold changed
  rw [if_neg h]

/-- A change of mode and mask touches no count and no detail record. -/
theorem changed_records : (e.changed sending m mask).counts = e.counts ∧ (e.changed sending m mask).details = e.details := by
  have hframe := repend_frame e (if sending then e.queue.drop 1 else e.queue)
  have hcounts := congrArg EventUnit.counts hframe
  have hdetails := congrArg EventUnit.details hframe
  by_cases h : m = e.mode
  · rw [changed_of_same _ _ _ _ h]
    exact ⟨rfl, rfl⟩
  · rw [changed_of_change _ _ _ _ h]
    exact ⟨hcounts, hdetails⟩

/-- No kind that was pending or queued is lost: its notice stays, or its kind is pending again. -/
theorem changed_lossless {k : Kind} (h : e.isPending k = true ∨ e.hasNotice k = true) :
    (e.changed sending m mask).isPending k = true ∨ (e.changed sending m mask).hasNotice k = true := by
  by_cases hm : m = e.mode
  · rw [changed_of_same _ _ _ _ hm]
    exact h
  · rw [changed_of_change _ _ _ _ hm]
    show (e.repend _).isPending k = true ∨ List.contains _ (Notice.event k) = true
    rw [isPending_repend, List.contains_eq_mem, decide_eq_true_eq]
    rcases h with h | h
    · exact .inl (.inl h)
    · have hmem : Notice.event k ∈ e.queue := by simpa [hasNotice] using h
      cases sending with
      | false => exact .inl (.inr hmem)
      | true =>
        rw [← List.take_append_drop 1 e.queue, List.mem_append] at hmem
        exact hmem.symm.imp .inr id

end

/-! ### GET_EVENTS (R177) -/

theorem reportRaised_eq (e : EventUnit) :
    e.reportRaised = { e with pending := e.pending &&& ~~~e.mask, counts := e.reportRaised.counts } := by
  have hpending : e.pending &&& ~~~(e.pending &&& e.mask) = e.pending &&& ~~~e.mask := by
    rw [BitVec.not_and, BitVec.and_or_distrib_left, BitVec.and_not_self]
    exact BitVec.zero_or
  show ({ e with pending := e.pending &&& ~~~(e.pending &&& e.mask), counts := e.reportRaised.counts } : EventUnit) = _
  rw [hpending]

theorem reportRaised_count (e : EventUnit) (k : Kind) :
    e.reportRaised.count k = if e.isPending k = true ∧ e.isEnabled k = true then 0 else e.count k := by
  have hget : e.reportRaised.count k = if e.raised.getLsbD k.prio.val then 0 else e.counts[k.prio] := by
    simp [count, reportRaised]
  rw [hget, raised_getLsbD]
  simp only [Bool.and_eq_true]
  rfl

/-- Nothing enabled is pending once the raised kinds are reported. -/
theorem reportRaised_raised (e : EventUnit) : e.reportRaised.raised = 0 := by
  rw [reportRaised_eq]
  show (e.pending &&& ~~~e.mask) &&& e.mask = 0
  rw [BitVec.and_assoc, BitVec.not_and_self]
  exact BitVec.and_zero

/-- With nothing raised, settling arms the flag and withdraws an unsent ATTENTION, and no EVENT notice (R175). -/
theorem settle_of_not_raised {e : EventUnit} (h : e.raised = 0) (sending : Bool) :
    e.settle sending = { e with armed := true, queue := (e.settle sending).queue }
      ∧ (e.mode = .itemized → (e.settle sending).queue = e.queue)
      ∧ (e.mode = .summary → (e.settle sending).queue = withdrawAttention sending e.queue) := by
  have hmode : e.mode = .itemized ∨ e.mode = .summary := by cases e.mode <;> simp
  rcases hmode with hm | hm
  · have hstops : ∀ k, ¬e.waits k := fun k ⟨hp, he, _⟩ => by
      rw [(raised_eq_zero_iff e).1 h k hp] at he
      cases he
    rw [settle_stops hm (.inr hstops), if_pos h]
    exact ⟨rfl, fun _ => rfl, fun hs => by cases hm.symm.trans hs⟩
  · rw [settle_summary hm, if_pos h]
    exact ⟨rfl, fun hs => (by cases hm.symm.trans hs), fun _ => rfl⟩

theorem mem_withdrawAttention (sending : Bool) (q : List Notice) (k : Kind) :
    Notice.event k ∈ withdrawAttention sending q ↔ Notice.event k ∈ q := by
  have hfilter : ∀ l : List Notice, Notice.event k ∈ l.filter (· != .attention) ↔ Notice.event k ∈ l := fun l => by
    rw [List.mem_filter]
    exact ⟨fun h => h.1, fun h => ⟨h, rfl⟩⟩
  rw [withdrawAttention_eq]
  split
  · rw [List.mem_append, hfilter, ← List.mem_append, List.take_append_drop]
  · exact hfilter q

theorem settle_hasNotice {e : EventUnit} (h : e.raised = 0) (sending : Bool) (k : Kind) :
    (e.settle sending).hasNotice k = e.hasNotice k := by
  obtain ⟨_, hitemized, hsummary⟩ := settle_of_not_raised h sending
  unfold hasNotice
  cases hm : e.mode with
  | itemized => rw [hitemized hm]
  | summary =>
    rw [hsummary hm, Bool.eq_iff_iff, List.contains_eq_mem, List.contains_eq_mem, decide_eq_true_eq, decide_eq_true_eq,
      mem_withdrawAttention]

end EventUnit

/-- Settles O47. -/
theorem eventRequestsOutcome : Obligations.EventRequestsOutcome := by
  intro tag s hs old
  refine ⟨fun mode mask => ⟨fun hbad => ?range, fun m hm => ?written⟩, ?get⟩
  case range =>
    refine exec_replied (i := .setEvents tag mode mask) rfl rfl hs ?_
    show answerSetEvents mode mask s = _
    unfold answerSetEvents
    rw [show eventModeOf mode = none from (ofByte_eq_none_iff mode _ _).2 hbad]
    rfl
  case written =>
    let e := old.changed s.sending m mask
    obtain ⟨hcounts, hdetails⟩ := old.changed_records s.sending m mask
    refine ⟨e, exec_replied (i := .setEvents tag mode mask) rfl rfl hs ?_, rfl, rfl, hcounts, hdetails,
      old.changed_of_same s.sending m mask, fun hne => ?_, EventUnit.settle_mode s.sending e, EventUnit.settle_mask s.sending e,
      (EventUnit.settle_counts s.sending e).trans hcounts, (EventUnit.settle_details s.sending e).trans hdetails,
      fun k hk => EventUnit.settle_lossless s.sending e k (old.changed_lossless s.sending m mask hk)⟩
    · show answerSetEvents mode mask s = _
      unfold answerSetEvents
      rw [hm, eventModeOf_code]
      rfl
    · intro dropped
      have he : e = _ := old.changed_of_change s.sending m mask hne
      rw [he]
      exact ⟨rfl, fun k => EventUnit.isPending_repend old dropped k, rfl⟩
  case get =>
    have hraised := old.reportRaised_raised
    obtain ⟨hsettle, hitemized, hsummary⟩ := EventUnit.settle_of_not_raised hraised s.sending
    refine ⟨old.reportRaised, exec_replied (i := .getEvents tag) rfl rfl hs rfl, old.reportRaised_eq, old.reportRaised_count, hsettle,
      hitemized, fun hm => ?_, EventUnit.settle_hasNotice hraised s.sending⟩
    rw [← EventUnit.withdrawAttention_eq]
    exact hsummary hm

end Sys2Proof.Machine
end

section
/-! What a scan completion leaves in the scanner and reports of it (R2, R8 to R14, R17). -/
namespace Sys2Proof.Machine

/-! ### The judged scan (R8 to R10, R12) -/

theorem clampInt_eq (lo hi x : Int) (h : lo ≤ hi) : clampInt lo hi x = max lo (min hi x) := by
  unfold clampInt
  split
  · omega
  · split <;> omega

theorem compensated_eq (raw : Vector (BitVec 16) 12) (c : Fin 12) : compensated raw c =
    if c.val < 3 then max (0 : Int) (min 65535 ((raw[c].toNat : Int) - ((raw[11].toNat : Int) - 32768)))
      else ((raw[c].toNat : Nat) : Int) := by
  unfold compensated
  dsimp only
  rw [clampInt_eq 0 65535 _ (by omega)]

theorem judgeBand_low_iff (c : Channel) (x : Int) : judgeBand c x = .low ↔ x < c.lower := by
  unfold judgeBand
  split
  · next h => exact iff_of_true rfl h
  · next h => split <;> exact iff_of_false nofun h

theorem judgeBand_high_iff (c : Channel) (x : Int) : judgeBand c x = .high ↔ c.lower ≤ x ∧ c.upper < x := by
  unfold judgeBand
  split
  · next h => exact iff_of_false nofun fun ⟨hl, _⟩ => absurd h (by omega)
  · next h =>
    split
    · next hu => exact iff_of_true rfl ⟨by omega, hu⟩
    · next hu => exact iff_of_false nofun fun ⟨_, hu'⟩ => hu hu'

/-! ### CHANNEL_BAND (R11) -/

/-- The channel leaves IN with this scan. -/
def leavesBand (before : Scanner) (scan : Scan) (c : Fin 12) : Bool :=
  (before.latest.all fun old : Scan => old.band[c] == .inside) && scan.band[c] != .inside

/-- The CHANNEL_BAND occurrence of a channel. -/
def bandEvent (scan : Scan) (c : Fin 12) : Detail := .channelBand c (scan.band[c] == .high) scan.scaled[c] scan.time

theorem channelList_eq : channelList = List.finRange 12 := by decide

theorem channelBandEvents_eq (before : Scanner) (scan : Scan) :
    channelBandEvents before scan = ((List.finRange 12).filter (leavesBand before scan)).map (bandEvent scan) := by
  have hbeq : ∀ b : Band, (b == .inside) = decide (b = .inside) := fun b => by cases b <;> rfl
  have hbne : ∀ b : Band, (b != .inside) = decide (b ≠ .inside) := fun b => by cases b <;> rfl
  have hleaves : ∀ c, leavesBand before scan c = (decide (before.bandState c = .inside) && decide (scan.band[c] ≠ .inside)) := fun c => by
    unfold leavesBand Scanner.bandState
    rw [hbne]
    cases before.latest with
    | none => rfl
    | some old => exact congrArg (· && _) (hbeq _)
  unfold channelBandEvents
  rw [channelList_eq, ← List.filterMap_eq_map, List.filterMap_filter]
  refine List.filterMap_congr fun c _ => ?_
  rw [hleaves c]
  rfl

/-- The greatest element of an increasing list is its last. -/
theorem getLast?_of_pairwise_lt {n : Nat} {l : List (Fin n)} (h : l.Pairwise (· < ·)) {c : Fin n} (hc : c ∈ l) (hmax : ∀ d ∈ l, d ≤ c) :
    l.getLast? = some c := by
  rcases List.eq_nil_or_concat l with rfl | ⟨init, last, rfl⟩
  · cases hc
  · rw [List.concat_eq_append] at h hc hmax ⊢
    rw [List.getLast?_concat]
    rw [List.mem_append, List.mem_singleton] at hc
    rcases hc with hc | rfl
    · have hlt : c < last := (List.pairwise_append.1 h).2.2 c hc last (List.mem_singleton_self last)
      exact absurd (hmax last (by simp)) (by omega)
    · rfl

theorem getLast?_channelBandEvents {before : Scanner} {scan : Scan} {c : Fin 12} (hc : leavesBand before scan c = true)
    (hmax : ∀ d, c < d → leavesBand before scan d = false) : (channelBandEvents before scan).getLast? = some (bandEvent scan c) := by
  have hlast : ((List.finRange 12).filter (leavesBand before scan)).getLast? = some c := by
    refine getLast?_of_pairwise_lt (List.Pairwise.filter _ (by decide)) (List.mem_filter.2 ⟨List.mem_finRange c, hc⟩) fun d hd => ?_
    rw [List.mem_filter] at hd
    refine not_lt.1 fun hlt => ?_
    rw [hmax d hlt] at hd
    exact Bool.noConfusion hd.2
  rw [channelBandEvents_eq, List.getLast?_map, hlast]
  rfl

theorem length_channelBandEvents (before : Scanner) (scan : Scan) :
    (channelBandEvents before scan).length = (List.finRange 12).countP (leavesBand before scan) := by
  rw [channelBandEvents_eq, List.length_map, List.countP_eq_length_filter]

/-! ### REF_FAULT (R13) -/

/-- An unreferenced scan after a referenced one, or after none. -/
def losesReference (before : Scanner) (scan : Scan) : Bool := before.latest.all Scan.referenced && !scan.referenced

theorem refFaultEvents_eq (before : Scanner) (scan : Scan) : refFaultEvents before scan =
    if losesReference before scan then
      [.refFault (refFailed scan.band[11] scan.band[10]) scan.band[11].polarity scan.band[10].polarity scan.raw[11] scan.scaled[10]
        scan.time]
    else [] := by
  unfold refFaultEvents losesReference Scanner.isReferenced
  cases before.latest <;> rfl

theorem Band.polarity_eq (b : Band) : b.polarity = if b = .inside then none else some (b == .high) := by cases b <;> rfl

/-! ### The scan that starts at a completion (R2, R5, R7, R17) -/

/-- SCAN_ONCE runs on exactly when the scan is not its own (R17). -/
theorem opAtScan_slot_scanOnce (slot : Option Op) (own : Bool) (p : WeighParams) (scan : Scan) (weight : Option Int) (window : Window) :
    (opAtScan slot own p scan weight window).slot = some .scanOnce ↔ slot = some .scanOnce ∧ own = false := by
  cases slot with
  | none => exact ⟨nofun, fun h => nomatch h.1⟩
  | some o =>
    cases o with
    | zero count sum skipped =>
      refine iff_of_false ?_ fun h => nomatch h.1
      simp only [opAtScan, zeroAtScan, zeroComplete, OpStep.ends, OpStep.running]
      repeat' split
      all_goals exact nofun
    | span mass =>
      refine iff_of_false ?_ fun h => nomatch h.1
      simp only [opAtScan, spanAtScan, spanComplete, OpStep.ends, OpStep.running]
      repeat' split
      all_goals exact nofun
    | scanOnce => cases own <;> simp [opAtScan, onceAtScan, OpStep.ends, OpStep.running]

section
variable (run : ScanRun) (raw : Vector (BitVec 16) 12) (s : State)

/-- SCAN_ONCE still waits for its own scan after the completion. -/
def onceWaits : Bool := s.op.slot == some .scanOnce && run.loaded.isSome

theorem onceRuns_eq : ((operationStep run raw s).slot == some .scanOnce) = onceWaits run s := by
  rw [Bool.eq_iff_iff, beq_iff_eq, operationStep, opAtScan_slot_scanOnce]
  simp [onceWaits, ScanRun.isOnce, Option.isSome_iff_ne_none]

theorem completeScan_scanner_eq : (completeScan run raw s).scanner = Scanner.startWaiting (onceWaits run s) s.time
    { s.scanner with running := none, latest := some (completedScan raw s) } := by
  rw [completeScan_scanner, ← onceRuns_eq run raw s]
  rfl

/-- Only CHANNEL_BAND and REF_FAULT come from the scanner, each from its own list. -/
theorem filter_scan_channelBand : (afterScan run raw s).2.flatten.filter (fun d => d.kind = .channelBand)
    = channelBandEvents s.scanner (completedScan raw s) := by
  have hk : Kind.channelBand ∉ liftKinds := by decide
  have hf := filter_scanEvents run raw s .channelBand
  dsimp only at hf
  rw [filter_track_of_not_mem hk] at hf
  simpa using hf

theorem filter_scan_refFault : (afterScan run raw s).2.flatten.filter (fun d => d.kind = .refFault)
    = refFaultEvents s.scanner (completedScan raw s) := by
  have hk : Kind.refFault ∉ liftKinds := by decide
  have hf := filter_scanEvents run raw s .refFault
  dsimp only at hf
  rw [filter_track_of_not_mem hk] at hf
  simpa using hf

end

/-- Settles O6. -/
theorem scanCompletionReplacesTheLatestScan : Obligations.ScanCompletionReplacesTheLatestScan := by
  intro raw run s hrun hdue
  let scan := completedScan raw s
  have hscaled : ∀ c : Fin 12, scan.scaled[c] = scaledValue raw c := fun c => judgeScan_scaled raw c s.scanner.channels s.time
  have hband : ∀ c : Fin 12, scan.band[c] = judgeBand s.scanner.channels[c] scan.scaled[c] := fun c => by
    rw [hscaled]
    exact judgeScan_band raw c s.scanner.channels s.time
  have hscanner := completeScan_scanner_eq run raw s
  have hcb := completeScan_reports run raw s .channelBand
  have hrf := completeScan_reports run raw s .refFault
  rw [filter_scan_channelBand] at hcb
  rw [filter_scan_refFault, refFaultEvents_eq] at hrf
  refine ⟨completeScan run raw s, scan, exec_scanCompletion hrun (decide_eq_true hdue), ?_, rfl, rfl,
    fun c => ⟨compensated raw c, compensated_eq raw c, hscaled c⟩,
    fun c => ⟨hband c ▸ judgeBand_low_iff _ _, hband c ▸ judgeBand_high_iff _ _⟩, ?_, ?_, ?_, ?_,
    ⟨fun c hc hmax => ?_, fun hnone => ?_, fun hle => ?_⟩, ⟨fun hfault => ?_, fun hfault => ?_⟩, ⟨fun hauto htimer => ?_,
      fun hauto htimer => ?_, fun hmanual => ?_⟩⟩
  · rw [hscanner, startWaiting_latest]
  · rw [show scan.referenced = _ from judgeScan_referenced raw s.scanner.channels s.time, Bool.and_eq_true, beq_iff_eq, beq_iff_eq]
    rfl
  · rw [hscanner, startWaiting_channels]
  · rw [hscanner, startWaiting_mode]
  · rw [hscanner, startWaiting_period]
  · rw [hcb.1, getLast?_channelBandEvents (before := s.scanner) (scan := scan) hc hmax]
    rfl
  · have hempty : channelBandEvents s.scanner (completedScan raw s) = [] := by
      rw [channelBandEvents_eq, List.filter_eq_nil_iff.2 fun c _ => by
        rw [show leavesBand s.scanner (completedScan raw s) c = false from hnone c]; decide]
      rfl
    rw [hcb.1, hempty]
    rfl
  · rw [hcb.2, repeat_satInc _ _ _ hle, length_channelBandEvents]
    rfl
  · rw [if_pos (show losesReference s.scanner (completedScan raw s) = true from hfault)] at hrf
    simp only [Band.polarity_eq] at hrf
    exact hrf
  · rw [if_neg (show ¬losesReference s.scanner (completedScan raw s) = true from fun h => by
      exact Bool.noConfusion (h.symm.trans hfault))] at hrf
    exact hrf
  · rw [hscanner]
    simp only [Scanner.startWaiting, hauto]
    rw [if_neg (by simpa using htimer)]
    exact ⟨rfl, rfl⟩
  · rw [hscanner]
    simp only [Scanner.startWaiting, hauto, htimer]
    exact ⟨rfl, rfl⟩
  · rw [hscanner]
    simp only [Scanner.startWaiting, hmanual]
    have hiff : onceWaits run s = true ↔ s.op.slot = some .scanOnce ∧ run.loaded ≠ none := by
      simp [onceWaits, Option.isSome_iff_ne_none]
    by_cases h : onceWaits run s = true
    · rw [if_pos h, if_pos (hiff.1 h)]
      exact ⟨rfl, rfl⟩
    · rw [if_neg h, if_neg (mt hiff.2 h)]
      exact ⟨rfl, rfl⟩

end Sys2Proof.Machine
end

section
/-! The pose solver (R23 to R28). -/
namespace Sys2Proof.Machine

/-! ### Rates (R26) -/

theorem slewChange_mod (now before : Int) : (slewChange now before - (now - before)) % 3600 = 0 := by
  unfold slewChange
  dsimp only
  split
  · omega
  · split <;> omega

/-- The change of two slews of one turn lies in −1,799 to 1,800. -/
theorem slewChange_bounds {now before : Int} (hnow : 0 ≤ now ∧ now < 3600) (hbefore : 0 ≤ before ∧ before < 3600) :
    -1799 ≤ slewChange now before ∧ slewChange now before ≤ 1800 := by
  unfold slewChange
  dsimp only
  split
  · omega
  · split <;> omega

theorem rateOf_eq (change : Int) (p : Nat) : rateOf change p = max (-32768) (min 32767 (Int.tdiv (change * 1000) p)) :=
  clampInt_eq _ _ _ (by omega)

/-- The rates against a previous scan, for slews within one turn. -/
theorem solveRates_some {prev : PrevScan} {slew : Int} (hslew : 0 ≤ slew ∧ slew < 3600) (hprev : 0 ≤ prev.slew ∧ prev.slew < 3600)
    (period : Nat) (theta : Int) : ∃ (r : Rates) (d : Int), solveRates (some prev) period slew theta = some r
      ∧ -1799 ≤ d ∧ d ≤ 1800 ∧ (d - (slew - prev.slew)) % 3600 = 0
      ∧ r.slew = max (-32768) (min 32767 (Int.tdiv (d * 1000) (prev.loaded.getD period)))
      ∧ r.boom = max (-32768) (min 32767 (Int.tdiv ((theta - prev.theta) * 1000) (prev.loaded.getD period))) := by
  obtain ⟨hlow, hhigh⟩ := slewChange_bounds hslew hprev
  exact ⟨_, slewChange slew prev.slew, rfl, hlow, hhigh, slewChange_mod slew prev.slew, rateOf_eq _ _, rateOf_eq _ _⟩

/-! ### The geometry cell (R28) -/

theorem cellOf_outOfTable_iff (theta reach : Int) :
    cellOf theta reach = .outOfTable ↔ theta < -200 ∨ 600 ≤ theta ∨ reach < 2000 ∨ 10000 ≤ reach := by
  unfold cellOf
  split
  · exact iff_of_false nofun (by omega)
  · exact iff_of_true rfl (by omega)

theorem cellOf_cell_iff (theta reach : Int) (r : Fin 16) (c : Fin 8) : cellOf theta reach = .cell r c ↔
    50 * (r.val : Int) - 200 ≤ theta ∧ theta ≤ 50 * (r.val : Int) - 151
      ∧ 1000 * (c.val : Int) + 2000 ≤ reach ∧ reach ≤ 1000 * (c.val : Int) + 2999 := by
  have hr := r.isLt
  have hc := c.isLt
  unfold cellOf
  split
  · next h =>
    rw [CellRef.cell.injEq, Fin.ext_iff, Fin.ext_iff]
    simp only [Fin.ofNat]
    omega
  · next h => exact iff_of_false nofun (by omega)

/-- Settles O12. -/
theorem poseRatesAndCell : Obligations.PoseRatesAndCell :=
  ⟨fun _ _ period scan hlow hhigh hplow hphigh =>
      solveRates_some (slew := scan.scaled[6]) ⟨hlow, hhigh⟩ ⟨hplow, hphigh⟩ period _,
    fun theta reach => ⟨cellOf_cell_iff theta reach, cellOf_outOfTable_iff theta reach⟩⟩

/-! ### θ, reach and height (R24, R25) -/

theorem trigScale_pos : 0 < trigScale := by decide

theorem roundHalfUp_trigScale (num : Int) : trigScale * (2 * roundHalfUp num trigScale - 1) ≤ 2 * num
    ∧ 2 * num < trigScale * (2 * roundHalfUp num trigScale + 1) := by
  have h := roundHalfUp_bounds num trigScale trigScale_pos
  constructor
  · linarith [h.1]
  · linarith [h.2]

/-- A whole number of units of the scale is rounded to that number. -/
theorem roundHalfUp_mul_trigScale (x : Int) : roundHalfUp (x * trigScale) trigScale = x := by
  obtain ⟨hlow, hhigh⟩ := roundHalfUp_trigScale (x * trigScale)
  have hlow' : 2 * roundHalfUp (x * trigScale) trigScale - 1 ≤ 2 * x :=
    Int.le_of_mul_le_mul_left (by linarith) trigScale_pos
  have hhigh' : 2 * x < 2 * roundHalfUp (x * trigScale) trigScale + 1 :=
    Int.lt_of_mul_lt_mul_left (by linarith) trigScale_pos.le
  omega

theorem cosScaled_zero : cosScaled 0 = trigScale := by decide
theorem sinScaled_zero : sinScaled 0 = 0 := by decide
theorem cosScaled_quarter : cosScaled 900 = 0 := by decide
theorem sinScaled_quarter : sinScaled 900 = trigScale := by decide

theorem tiltResolved_zero (boom pitch roll : Int) : tiltResolved boom pitch roll 0 = boom + pitch := by
  unfold tiltResolved
  rw [cosScaled_zero, sinScaled_zero, Int.mul_zero, Int.add_zero, ← Int.add_mul, roundHalfUp_mul_trigScale]

theorem tiltResolved_quarter (boom pitch roll : Int) : tiltResolved boom pitch roll 900 = boom + roll := by
  unfold tiltResolved
  rw [cosScaled_quarter, sinScaled_quarter, Int.mul_zero, Int.add_zero, ← Int.add_mul, roundHalfUp_mul_trigScale]

theorem tiltResolved_bounds (boom pitch roll slew : Int) :
    trigScale * (2 * tiltResolved boom pitch roll slew - 1) ≤ 2 * (boom * trigScale + pitch * cosScaled slew + roll * sinScaled slew)
    ∧ 2 * (boom * trigScale + pitch * cosScaled slew + roll * sinScaled slew)
        < trigScale * (2 * tiltResolved boom pitch roll slew + 1) := roundHalfUp_trigScale _

/-- Reach and height are the expressions of R25, each rounded half up. -/
theorem solvePosition_bounds (k : Crane) (theta stick ext : Int) {p : Position} (hp : solvePosition k theta stick ext = p) :
    let across := k.lb * cosScaled theta + (k.ls + ext) * cosScaled (theta + stick)
    let up := k.h * trigScale + k.lb * sinScaled theta + (k.ls + ext) * sinScaled (theta + stick)
    trigScale * (2 * p.reach - 1) ≤ 2 * across ∧ 2 * across < trigScale * (2 * p.reach + 1)
      ∧ trigScale * (2 * p.height - 1) ≤ 2 * up ∧ 2 * up < trigScale * (2 * p.height + 1) := by
  subst hp
  intro across up
  obtain ⟨hreachLow, hreachHigh⟩ := roundHalfUp_trigScale across
  obtain ⟨hheightLow, hheightHigh⟩ := roundHalfUp_trigScale up
  exact ⟨hreachLow, hreachHigh, hheightLow, hheightHigh⟩

theorem solvePose_position (crane : Option Crane) (prev : Option PrevScan) (period : Nat) (scan : Scan) :
    (solvePose crane prev period scan).position = crane.map fun c =>
      (solvePosition c (solvePose crane prev period scan).theta scan.scaled[4] scan.scaled[5],
        cellOf (solvePose crane prev period scan).theta
          (solvePosition c (solvePose crane prev period scan).theta scan.scaled[4] scan.scaled[5]).reach) := rfl

/-! ### Validity (R27) -/

theorem poseBandFails_iff (scan : Scan) : poseBandFails scan = true ↔ ∃ c : Fin 12, 3 ≤ c.val ∧ c.val ≤ 8 ∧ scan.band[c] ≠ .inside := by
  simp only [poseBandFails, Bool.or_eq_true, bne_iff_ne]
  constructor
  · rintro (((((h | h) | h) | h) | h) | h)
    · exact ⟨3, by decide, by decide, h⟩
    · exact ⟨4, by decide, by decide, h⟩
    · exact ⟨5, by decide, by decide, h⟩
    · exact ⟨6, by decide, by decide, h⟩
    · exact ⟨7, by decide, by decide, h⟩
    · exact ⟨8, by decide, by decide, h⟩
  · rintro ⟨⟨c, hc⟩, h3, h8, hband⟩
    have hcase : c = 3 ∨ c = 4 ∨ c = 5 ∨ c = 6 ∨ c = 7 ∨ c = 8 := by
      dsimp only at h3 h8
      omega
    rcases hcase with rfl | rfl | rfl | rfl | rfl | rfl
    · exact .inl (.inl (.inl (.inl (.inl hband))))
    · exact .inl (.inl (.inl (.inl (.inr hband))))
    · exact .inl (.inl (.inl (.inr hband)))
    · exact .inl (.inl (.inr hband))
    · exact .inl (.inr hband)
    · exact .inr hband

theorem Pose.valid_iff (p : Pose) : p.valid = true ↔ p.unset = false ∧ p.band = false ∧ p.unreferenced = false := by
  simp only [Pose.valid, Bool.and_eq_true, Bool.not_eq_true', and_assoc]

/-- The scaled SLEW value of a completed scan lies within one turn (R9). -/
theorem completedScan_slew (raw : Vector (BitVec 16) 12) (s : State) :
    0 ≤ (completedScan raw s).scaled[6] ∧ (completedScan raw s).scaled[6] < 3600 := by
  have hvalue : (completedScan raw s).scaled[6] = (raw[6].toNat : Int) * 3600 / 65536 := by
    have h := judgeScan_scaled raw 6 s.scanner.channels s.time
    rw [show (completedScan raw s).scaled[6] = scaledValue raw 6 from h]
    exact Int.add_zero _
  have hlt := raw[6].isLt
  rw [hvalue]
  omega

/-- Settles O13. -/
theorem scanCompletionSolvesThePose : Obligations.ScanCompletionSolvesThePose := by
  intro raw run s hrun hdue
  let scan := completedScan raw s
  let pose := completedPose raw s
  have htheta : pose.theta = tiltResolved scan.scaled[3] scan.scaled[7] scan.scaled[8] pose.slew := rfl
  have hbounds := tiltResolved_bounds scan.scaled[3] scan.scaled[7] scan.scaled[8] pose.slew
  rw [← htheta] at hbounds
  refine ⟨completeScan run raw s, pose, scan, exec_scanCompletion hrun hdue, ?latest, ?scan, rfl, rfl, Option.isNone_iff_eq_none, rfl,
    poseBandFails_iff scan, Pose.valid_iff pose, hbounds, fun h0 => ?_, fun h900 => ?_, fun k p cell hk hp => ?position,
    Option.map_eq_none_iff, Option.map_eq_none_iff, fun prev hprev hlow hhigh => ?rates, ?prev⟩
  case latest => rw [completeScan_pose]
  case scan => rw [completeScan_scanner_eq, startWaiting_latest]
  · rw [htheta, h0, tiltResolved_zero]
  · rw [htheta, h900, tiltResolved_quarter]
  case position =>
    rw [show pose.position = _ from solvePose_position s.pose.crane s.pose.prev s.scanner.period scan, hk, Option.map_some,
      Option.some.injEq, Prod.mk.injEq] at hp
    obtain ⟨hposition, hcell⟩ := hp
    obtain ⟨hreachLow, hreachHigh, hheightLow, hheightHigh⟩ := solvePosition_bounds k _ _ _ hposition
    rw [hposition] at hcell
    exact ⟨hreachLow, hreachHigh, hheightLow, hheightHigh, hcell.symm⟩
  case rates =>
    obtain ⟨r, d, hr, hdlow, hdhigh, hmod, hslew, hboom⟩ :=
      solveRates_some (completedScan_slew raw s) (prev := prev) ⟨hlow, hhigh⟩ s.scanner.period pose.theta
    refine ⟨r, d, ?_, hdlow, hdhigh, hmod, hslew, hboom⟩
    rw [← hr, ← hprev]
    rfl
  case prev => rw [completeScan_pose]

end Sys2Proof.Machine
end

section
/-! The zone table at a scan completion (R39 to R46), and what a completion never touches. -/
namespace Sys2Proof.Machine

/-! ### Entries judged (R41, R42, R44) -/

theorem judge_entry (pose : Pose) (t : ZoneTable) (e : Fin 16) : (t.judge pose).entries[e] = t.entries[e].judge pose := by
  simp only [ZoneTable.judge, Fin.getElem_fin, Vector.getElem_ofFn]

theorem judge_entry_contents (pose : Pose) (t : ZoneTable) (e : Fin 16) :
    (t.judge pose).entries[e].contents = t.entries[e].contents := by rw [judge_entry]; rfl

theorem judge_entry_result (pose : Pose) (t : ZoneTable) (e : Fin 16) :
    (t.judge pose).entries[e].result = judgeEntry pose t.entries[e].contents := by rw [judge_entry]; rfl

theorem judge_entry_edited (pose : Pose) (t : ZoneTable) (e : Fin 16) : (t.judge pose).entries[e].edited = false := by
  rw [judge_entry]; rfl

theorem judgeEntry_of_valid {pose : Pose} (hvalid : pose.valid = true) {p : Position} {c : CellRef} (hp : pose.position = some (p, c))
    (z : Zone) : judgeEntry pose (some z) = if z.contains pose.slew p then .inside else .outside := by
  simp only [judgeEntry, hvalid, hp, if_true]

/-! ### The summary (R39, R43) -/

section
variable (entries : Vector ZoneEntry 16)

/-- The kind of an entry INSIDE, none of any other. -/
def insideKind (e : ZoneEntry) : Option ZoneKind := if e.result = .inside then e.contents.map Zone.kind else none

theorem insideKind_eq_some_iff (e : ZoneEntry) (k : ZoneKind) :
    insideKind e = some k ↔ e.result = .inside ∧ ∃ z, e.contents = some z ∧ z.kind = k := by
  unfold insideKind
  split
  · next h => simp [h]
  · next h => simp [h]

theorem entries_toList : entries.toList = (List.finRange 16).map fun e => entries[e] := by
  refine List.ext_getElem (by simp) fun i hi hj => ?_
  rw [Vector.getElem_toList, List.getElem_map, List.getElem_finRange]
  rfl

theorem insideKinds_eq : insideKinds entries = (List.finRange 16).filterMap fun e => insideKind entries[e] := by
  show entries.toList.filterMap insideKind = _
  rw [entries_toList, List.filterMap_map]
  rfl

theorem mem_insideKinds (k : ZoneKind) : k ∈ insideKinds entries ↔
    ∃ (e : Fin 16) (z : Zone), entries[e].result = .inside ∧ entries[e].contents = some z ∧ z.kind = k := by
  rw [insideKinds_eq, List.mem_filterMap]
  refine exists_congr fun e => ?_
  rw [insideKind_eq_some_iff]
  exact ⟨fun ⟨_, hin, z, hz⟩ => ⟨z, hin, hz⟩, fun ⟨z, hin, hz⟩ => ⟨List.mem_finRange e, hin, z, hz⟩⟩

/-- The kinds of the entries INSIDE with a property, counted over the entries. -/
theorem length_filter_insideKinds (p : ZoneKind → Bool) : ((insideKinds entries).filter p).length =
    (List.finRange 16).countP fun e => entries[e].result == .inside && entries[e].contents.any fun z => p z.kind := by
  rw [insideKinds_eq, List.filter_filterMap, List.length_filterMap_eq_countP]
  refine List.countP_congr fun e _ => ?_
  unfold insideKind
  cases hr : entries[e].result <;> cases hc : entries[e].contents with
  | none => simp
  | some z => cases hp : p z.kind <;> simp [hp]

theorem summarize_weigh_iff : (summarize entries).weigh = true ↔ ZoneKind.weigh ∈ insideKinds entries := by
  simp [summarize]
theorem summarize_bunk_iff : (summarize entries).bunk = true ↔ ZoneKind.bunk ∈ insideKinds entries := by
  simp [summarize]

/-- What reads the level of function `n` off a row. -/
structure ReadsFunction (n : Nat) (f : PerFn Level → Level) : Prop where
  zip : ∀ p q : PerFn Level, f (p.zip Level.max q) = (f p).max (f q)
  free : f (.const .free) = .free
  slow : ∀ b : BitVec 6, f (ZoneKind.slow b).levels = if b.getLsbD n then .slow else .free
  hold : ∀ b : BitVec 6, f (ZoneKind.hold b).levels = if b.getLsbD n then .hold else .free

theorem readsFunction {f : Nat × (PerFn Level → Level)} (hf : f ∈ [(0, PerFn.slew), (1, PerFn.lift), (2, PerFn.stick), (3, PerFn.extend),
    (4, PerFn.rotate), (5, PerFn.grapple)]) : ReadsFunction f.1 f.2 := by
  simp only [List.mem_cons, List.not_mem_nil, or_false] at hf
  rcases hf with rfl | rfl | rfl | rfl | rfl | rfl <;> exact ⟨fun _ _ => rfl, rfl, fun _ => rfl, fun _ => rfl⟩

/-- A function's level in the summary is the most restrictive of those that the kinds INSIDE give it. -/
theorem summarize_level {n : Nat} {f : PerFn Level → Level} (hf : ReadsFunction n f) :
    f (summarize entries).levels = ((insideKinds entries).map fun k => f k.levels).foldl Level.max .free := by
  have h := foldl_zip_max hf.zip ((insideKinds entries).map ZoneKind.levels) (.const .free)
  rw [hf.free, List.map_map, List.foldl_map] at h
  exact h

theorem levels_of_kind {n : Nat} {f : PerFn Level → Level} (hf : ReadsFunction n f) (k : ZoneKind) :
    (f k.levels = .hold ↔ ∃ b, k = .hold b ∧ b.getLsbD n = true) ∧ (f k.levels = .slow ↔ ∃ b, k = .slow b ∧ b.getLsbD n = true) := by
  cases k with
  | weigh => exact ⟨iff_of_false (hf.free ▸ nofun) nofun, iff_of_false (hf.free ▸ nofun) nofun⟩
  | bunk => exact ⟨iff_of_false (hf.free ▸ nofun) nofun, iff_of_false (hf.free ▸ nofun) nofun⟩
  | slow b => rw [hf.slow]; cases hb : b.getLsbD n <;> simp [hb]
  | hold b => rw [hf.hold]; cases hb : b.getLsbD n <;> simp [hb]

/-- HOLD where a HOLD entry INSIDE names the function, else SLOW where a SLOW entry does, else FREE (R39, R43). -/
theorem summarize_level_cases {n : Nat} {f : PerFn Level → Level} (hf : ReadsFunction n f) :
    let held := ∃ b : BitVec 6, ZoneKind.hold b ∈ insideKinds entries ∧ b.getLsbD n = true
    let slowed := ∃ b : BitVec 6, ZoneKind.slow b ∈ insideKinds entries ∧ b.getLsbD n = true
    (held → f (summarize entries).levels = .hold) ∧ (¬held → slowed → f (summarize entries).levels = .slow)
      ∧ (¬held → ¬slowed → f (summarize entries).levels = .free) := by
  intro held slowed
  obtain ⟨hall, _, hmem⟩ := foldl_max ((insideKinds entries).map fun k => f k.levels) .free
  rw [← summarize_level entries hf] at hall hmem
  have hhold : f (summarize entries).levels = .hold → held := fun h => by
    rw [h, List.mem_map] at hmem
    obtain hmem | ⟨k, hk, hlevel⟩ := hmem
    · cases hmem
    · obtain ⟨b, rfl, hb⟩ := (levels_of_kind hf k).1.1 hlevel
      exact ⟨b, hk, hb⟩
  have hslow : f (summarize entries).levels = .slow → slowed := fun h => by
    rw [h, List.mem_map] at hmem
    obtain hmem | ⟨k, hk, hlevel⟩ := hmem
    · cases hmem
    · obtain ⟨b, rfl, hb⟩ := (levels_of_kind hf k).2.1 hlevel
      exact ⟨b, hk, hb⟩
  refine ⟨fun ⟨b, hk, hb⟩ => ?_, fun hnot ⟨b, hk, hb⟩ => ?_, fun hnot hnoSlow => ?_⟩
  · have hle := hall .hold (List.mem_map.2 ⟨_, hk, (levels_of_kind hf _).1.2 ⟨b, rfl, hb⟩⟩)
    cases hlevel : f (summarize entries).levels with
    | hold => rfl
    | slow => rw [hlevel] at hle; exact absurd hle (by decide)
    | free => rw [hlevel] at hle; exact absurd hle (by decide)
  · have hle := hall .slow (List.mem_map.2 ⟨_, hk, (levels_of_kind hf _).2.2 ⟨b, rfl, hb⟩⟩)
    cases hlevel : f (summarize entries).levels with
    | hold => exact absurd (hhold hlevel) hnot
    | slow => rfl
    | free => rw [hlevel] at hle; exact absurd hle (by decide)
  · cases hlevel : f (summarize entries).levels with
    | hold => exact absurd (hhold hlevel) hnot
    | slow => exact absurd (hslow hlevel) hnoSlow
    | free => rfl

end

theorem summarize_of_no_insideKinds {entries : Vector ZoneEntry 16} (h : insideKinds entries = []) :
    summarize entries = ⟨false, false, .const .free, 0, 0⟩ := by
  unfold summarize
  rw [h]
  rfl

/-- Where every entry INSIDE is in use, the summary counts the entries INSIDE. -/
theorem summarize_inside {entries : Vector ZoneEntry 16} (h : ∀ e : Fin 16, entries[e].result = .inside → entries[e].contents.isSome = true) :
    (summarize entries).inside = (List.finRange 16).countP fun e => entries[e].result == .inside := by
  have hall := length_filter_insideKinds entries fun _ => true
  rw [List.filter_eq_self.2 fun _ _ => rfl] at hall
  refine hall.trans (List.countP_congr fun e _ => ?_)
  rw [Bool.and_eq_true, beq_iff_eq]
  refine ⟨fun hin => hin.1, fun hin => ⟨hin, ?_⟩⟩
  have hused := h e hin
  cases hc : entries[e].contents with
  | none => rw [hc] at hused; cases hused
  | some z => rfl

theorem ZoneKind.isPermit_eq (k : ZoneKind) : k.isPermit = (k != .weigh && k != .bunk) := by cases k <;> rfl

theorem summarize_permitInside (entries : Vector ZoneEntry 16) : (summarize entries).permitInside =
    (List.finRange 16).countP fun e => entries[e].result == .inside
      && entries[e].contents.any fun z => z.kind != .weigh && z.kind != .bunk := by
  have h := length_filter_insideKinds entries ZoneKind.isPermit
  simp only [ZoneKind.isPermit_eq] at h
  rw [← h]
  simp only [summarize, funext ZoneKind.isPermit_eq]

/-- An entry that the completion found INSIDE is in use (R42). -/
theorem judge_inside_contents {pose : Pose} {t : ZoneTable} {e : Fin 16} (h : (t.judge pose).entries[e].result = .inside) :
    t.entries[e].contents.isSome = true := by
  rw [judge_entry] at h
  cases hc : t.entries[e].contents with
  | none => simp only [ZoneEntry.judge, hc, judgeEntry] at h; cases h
  | some z => rfl

/-- Settles O19. -/
theorem scanCompletionJudgesZones : Obligations.ScanCompletionJudgesZones := by
  refine ⟨Zone.contains_iff, fun raw run s hrun hdue => ?_⟩
  let pose := completedPose raw s
  have hzones := completeScan_zones run raw s
  have hcontents : ∀ e : Fin 16, (completedZones raw s).entries[e].contents = s.zones.entries[e].contents := judge_entry_contents pose s.zones
  have hresult : ∀ e : Fin 16, (completedZones raw s).entries[e].result = judgeEntry pose s.zones.entries[e].contents := judge_entry_result pose s.zones
  refine ⟨completeScan run raw s, pose, summarize (completedZones raw s).entries, exec_scanCompletion hrun hdue, ?latest, ?summary,
    fun e => ⟨?edited, fun hnone => ?notJudged, fun z p c hz hvalid hp => ?judged⟩, ?row, fun hinvalid => ?invalid, ?members⟩
  case latest => rw [completeScan_pose]
  case summary => rw [hzones]; rfl
  case edited => rw [hzones]; exact judge_entry_edited pose s.zones e
  case notJudged =>
    rw [hzones, hresult]
    rcases hnone with hnone | hinvalid
    · rw [hnone]; rfl
    · exact judgeEntry_of_invalid hinvalid _
  case judged =>
    rw [hzones, hresult, hz]
    exact judgeEntry_of_valid hvalid hp z
  case row => rw [completeScan_permit]; rfl
  case invalid => exact summarize_of_no_insideKinds (insideKinds_eq_nil (judge_result_ne_inside_of_invalid hinvalid s.zones))
  case members =>
    rw [hzones]
    intro inside functions
    have hinside : ∀ k, k ∈ insideKinds (completedZones raw s).entries ↔ inside k := fun k => by
      rw [mem_insideKinds]
      simp only [hcontents]
      rfl
    refine ⟨(summarize_weigh_iff _).trans (hinside _), (summarize_bunk_iff _).trans (hinside _), fun f hf => ?level, ?count, ?permits⟩
    case level =>
      have h := summarize_level_cases (completedZones raw s).entries (readsFunction hf)
      simp only [hinside] at h
      exact h
    case count =>
      refine summarize_inside fun e he => ?_
      rw [hcontents]
      exact judge_inside_contents he
    case permits =>
      have h := summarize_permitInside (completedZones raw s).entries
      simp only [hcontents] at h
      exact h

/-! ### What a completion never touches -/

/-- Only a finalization touches tally and records (R60, R104, R107). -/
theorem track_finalizes_only {v : ScanView} {s : State} (h : s.tracker.state.isGripped = false ∨ s.weigh.params.regrip ≠ 0) :
    (track v s).1.tally = s.tally ∧ (track v s).1.records = s.records := by
  unfold track trackGripping trackReleasing
  split
  · split <;> exact ⟨rfl, rfl⟩
  · split
    · split
      · next l hs =>
        have hregrip : s.weigh.params.regrip ≠ 0 := by
          rw [hs] at h
          exact h.resolve_left Bool.noConfusion
        rw [if_neg hregrip]
        exact ⟨rfl, rfl⟩
      all_goals exact ⟨rfl, rfl⟩
    · exact ⟨rfl, rfl⟩

theorem isGripped_mapLift (f : Lift → Lift) (k : TrackerState) : (k.mapLift f).isGripped = k.isGripped := by cases k <;> rfl

theorem beforeTrack_isGripped (run : ScanRun) (raw : Vector (BitVec 16) 12) (s : State) :
    (beforeTrack run raw s).tracker.state.isGripped = s.tracker.state.isGripped := by
  rcases beforeTrack_tracker_state run raw s with h | ⟨f, h⟩
  · rw [h]
  · rw [h, isGripped_mapLift]

/-- Settles O7. -/
theorem scanCompletionFrame : Obligations.ScanCompletionFrame := by
  intro raw run s hrun hdue
  have htracked : (completeScan run raw s).tracker.sort = s.tracker.sort := by
    rw [completeScan_tracker, track_sort]
    exact takeWeight_sort _ _ _
  refine ⟨completeScan run raw s, exec_scanCompletion hrun hdue, completeScan_time run raw s, completeScan_table run raw s, ?crane,
    htracked, completeScan_link run raw s, completeScan_aux run raw s, completeScan_sup run raw s, ?mask, ?mode, fun e => ?contents,
    fun h => ?finalizes⟩
  case crane => rw [completeScan_pose]
  case mask =>
    unfold completeScan
    dsimp only
    rw [raiseAll_mask]
    simp only [afterScan, track_events, takeWeight_events, takeGeometry_events]
  case mode =>
    unfold completeScan
    dsimp only
    rw [raiseAll_mode]
    simp only [afterScan, track_events, takeWeight_events, takeGeometry_events]
  case contents =>
    rw [completeScan_zones]
    exact judge_entry_contents (completedPose raw s) s.zones e
  case finalizes =>
    rw [completeScan_tally, completeScan_records]
    exact track_finalizes_only (by rw [beforeTrack_isGripped]; exact h)

end Sys2Proof.Machine
end

section
/-! The reading requests: what each answers (R19, R29, R35, R50, R79, R123, R158, R163, R178, R192, R193). -/
namespace Sys2Proof.Machine

/-! ### The results of each owning block -/

theorem scanBytes_eq (x : Scan) : scanBytes x =
    (List.finRange 12).flatMap (fun c => split16 x.raw[c] ++ be 2 x.scaled[c] ++ [x.band[c].code]) ++ [boolByte x.referenced]
      ++ timeBytes x.time := by
  unfold scanBytes
  rw [channelList_eq]

theorem poseBytes_eq {cell : CellRef → List Byte} (hout : cell .outOfTable = [0])
    (hcell : ∀ row col, cell (.cell row col) = [1] ++ be 1 row.val ++ be 1 col.val) (p : Pose) : poseBytes p =
    be 2 p.theta ++ be 2 p.slew ++ optBytes (fun x => be 2 x.1.reach) p.position ++ optBytes (fun x => be 2 x.1.height) p.position
      ++ optBytes (fun r => be 2 (Rates.slew r)) p.rates ++ optBytes (fun r => be 2 (Rates.boom r)) p.rates
      ++ [boolByte (!p.valid), boolByte p.unset ||| (boolByte p.band <<< 1) ||| (boolByte p.unreferenced <<< 2)]
      ++ optBytes (fun x => cell x.2) p.position ++ timeBytes p.time := by
  have heq : cellBytes = cell := funext fun c => by
    cases c with
    | outOfTable => exact hout.symm
    | cell row col => exact (hcell row col).symm
  unfold poseBytes
  rw [heq]
  rfl

/-- The crane constants in a reply, zeros standing for those not set (R29). -/
theorem craneBytes_eq (c : Option Crane) :
    let k := c.getD ⟨0, 0, 0, 0, 0⟩
    craneBytes c = be 2 k.lb ++ be 2 k.ls ++ be 2 k.h ++ be 2 k.ap ++ be 2 k.ar ++ [boolByte c.isSome] := by
  cases c <;> rfl

theorem answerGetWeigh_eq {s : State} {figures : List Byte} (h : [s.weigh.context.code] ++ contextBytes s.weigh.context = figures) :
    let p := s.weigh.params
    let w := s.weigh.window
    answerGetWeigh s = .ok s (be 1 p.budget ++ be 1 p.still ++ be 2 p.tolerance ++ be 2 p.motion ++ be 2 p.grip ++ be 2 p.release
      ++ be 2 p.regrip ++ be 2 p.trim ++ be 2 p.tare ++ figures ++ [w.state.code] ++ optBytes (fun c => [CloseStatus.code c]) w.state.status
      ++ [boolByte w.missed] ++ w.samples.flatMap (be 3) ++ [boolByte s.weigh.overload]
      ++ optBytes (fun x => be 3 (LatestWeight.weight x) ++ timeBytes x.time) s.weigh.latest) := by
  subst h
  simp only [answerGetWeigh, weighParamBytes, windowBytes, List.append_assoc, List.cons_append, List.nil_append]

theorem permitCount_eq (s : State) : permitCount s =
    s.zones.summary.bind fun x : Summary => s.scanner.latest.map fun scan : Scan => (x.permitInside, scan.time) := by
  unfold permitCount
  cases s.zones.summary <;> cases s.scanner.latest <;> rfl

theorem answerGetStatus_eq {s : State} {last : LastResult → List Byte} (h : lastResultBytes = last) :
    answerGetStatus s = .ok s ([s.link.cause.code] ++ timeBytes s.time ++ be 1 s.link.speed.val
      ++ [boolByte s.link.keep, s.scanner.mode.code, s.table.state.code, s.tracker.state.code, s.weigh.window.state.code]
      ++ optBytes (fun c => [CloseStatus.code c]) s.weigh.window.state.status ++ [s.permit.sup.stage.code, boolByte s.op.slot.isSome]
      ++ optBytes (fun o => [OpKind.code (Op.kind o)]) s.op.slot ++ optBytes last s.op.last ++ be 1 s.records.lifts ++ be 1 s.records.loads
      ++ [boolByte (s.records.gap.lifts != 0)] ++ be 1 s.events.queue.length ++ be 2 s.tally.loadNumber ++ [sortByte s.tracker.sort]
      ++ s.permit.outputs.toList.map Level.code) := by
  subst h
  simp only [answerGetStatus, statusBytes, windowBytes, slotBytes, Gap.nonEmpty, List.append_assoc, List.cons_append, List.nil_append]

theorem kind_all_prio (k : Kind) : Kind.all[k.prio.val]? = some k := by cases k <;> rfl

/-- Settles O11. -/
theorem readingRequestsChangeNothing : Obligations.ReadingRequestsChangeNothing := by
  refine ⟨fun tag s hs => ?sample, fun tag s cell hs hout hcell => ?pose, fun tag s figures hs habsent hlift hcal => ?weigh,
    fun tag s hs => ?states, fun tag index s hs => ?indexed⟩
  case sample =>
    refine exec_replied (i := .getSample tag) rfl rfl hs ?_
    show Answer.ok s (scanSettings s ++ s.scanner.channels.toList.flatMap channelBytes ++ optBytes scanBytes s.scanner.latest) = _
    rw [funext scanBytes_eq]
    rfl
  case pose =>
    refine exec_replied (i := .getPose tag) rfl rfl hs ?_
    show Answer.ok s (craneBytes s.pose.crane ++ optBytes poseBytes s.pose.latest ++ [s.table.state.code]) = _
    rw [funext (poseBytes_eq hout hcell), craneBytes_eq]
    rfl
  case weigh =>
    refine exec_replied (i := .getWeigh tag) rfl rfl hs (answerGetWeigh_eq ?_)
    cases hc : s.weigh.context with
    | absent => exact (habsent hc).symm
    | lift c => rw [hlift c hc]; rfl
    | calibration c => rw [hcal c hc]; rfl
  case states =>
    intro t entry row rows inactive count line op ground last
    refine ⟨exec_replied (i := .getTally tag) rfl rfl hs rfl, exec_replied (i := .getPermits tag) rfl rfl hs ?_,
      exec_replied (i := .getLines tag) rfl rfl hs rfl, exec_replied (i := .ping tag) rfl rfl hs rfl,
      exec_replied (i := .getStatus tag) rfl rfl hs (answerGetStatus_eq (funext lastResultBytes_eq))⟩
    show Answer.ok s _ = _
    rw [permitCount_eq]
    rfl
  case indexed =>
    have tableRead {status : Status} {results : List Byte} (ha : answerTableRead index s = ⟨s, status, results, 0, .nothing⟩) :
        exec (.tableRead tag index) s = .next (s.replied tag 0x23 status results) := exec_replied (i := .tableRead tag index) rfl rfl hs ha
    have getZone {status : Status} {results : List Byte} (ha : answerGetZone index s = ⟨s, status, results, 0, .nothing⟩) :
        exec (.getZone tag index) s = .next (s.replied tag 0x2A status results) := exec_replied (i := .getZone tag index) rfl rfl hs ha
    have getDetail {status : Status} {results : List Byte} (ha : answerGetDetail index s = ⟨s, status, results, 0, .nothing⟩) :
        exec (.getDetail tag index) s = .next (s.replied tag 0x62 status results) := exec_replied (i := .getDetail tag index) rfl rfl hs ha
    refine ⟨fun hnot => tableRead (if_pos hnot), fun hvalid hrange => tableRead ?rowRange, fun r row hvalid hr hrow => tableRead ?row,
      fun hrange => getZone ?zoneRange, fun i hi => getZone ?zone, fun hrange => getDetail ?kindRange, fun k hk => getDetail ?kind⟩
    case rowRange =>
      unfold answerTableRead
      rw [if_neg (not_not.2 hvalid), finOf_none hrange]
      rfl
    case row =>
      unfold answerTableRead
      rw [if_neg (not_not.2 hvalid), finOf_some r hr]
      dsimp only
      rw [hrow]
      rfl
    case zoneRange =>
      unfold answerGetZone
      rw [finOf_none hrange]
      rfl
    case zone =>
      unfold answerGetZone
      rw [finOf_some i hi]
      rfl
    case kindRange =>
      unfold answerGetDetail
      rw [List.getElem?_eq_none hrange]
      rfl
    case kind =>
      unfold answerGetDetail
      rw [hk, kind_all_prio]
      rfl

end Sys2Proof.Machine
end

section
/-! Finalization, and the end of the regrip time (R61, R63, R106). -/
namespace Sys2Proof.Machine

/-! ### The occurrences of a finalization (R106) -/

theorem filter_takeLift_ready (q : RecordQueue) (r : LiftRecord) (now : Time) :
    (q.takeLift r now).2.1.filter (fun d => d.kind = .recordsReady) =
      if q.lifts < 30 ∧ q.mode = .polled ∧ q.records.length + 1 = q.threshold then [.recordsReady .threshold (q.lifts + 1) q.loads now]
      else [] := by
  rw [takeLift_events]
  by_cases hroom : q.lifts < 30
  · by_cases hready : q.mode = .polled ∧ q.records.length + 1 = q.threshold
    · rw [if_pos hroom, if_pos hready, if_pos ⟨hroom, hready⟩]
      rfl
    · rw [if_pos hroom, if_neg hready, if_neg fun h => hready h.2]
      rfl
  · have hnot : ¬(q.lifts < 30 ∧ q.mode = .polled ∧ q.records.length + 1 = q.threshold) := fun h => hroom h.1
    rw [if_neg hroom, if_neg hnot]
    split <;> rfl

theorem filter_takeLift_gap (q : RecordQueue) (r : LiftRecord) (now : Time) :
    (q.takeLift r now).2.1.filter (fun d => d.kind = .recordGap) =
      if 30 ≤ q.lifts ∧ q.gap.lifts = 0 then [.recordGap r.loadNumber r.liftNumber r.direction q.lifts q.loads now] else [] := by
  rw [takeLift_events]
  by_cases hroom : q.lifts < 30
  · have hnot : ¬(30 ≤ q.lifts ∧ q.gap.lifts = 0) := fun h => not_le.2 hroom h.1
    rw [if_pos hroom, if_neg hnot]
    split <;> rfl
  · by_cases hempty : q.gap.lifts = 0
    · rw [if_neg hroom, if_pos hempty, if_pos ⟨not_lt.1 hroom, hempty⟩]
      rfl
    · rw [if_neg hroom, if_neg hempty, if_neg fun h => hempty h.2]
      rfl

/-- The queue raises RECORDS_READY and RECORD_GAP only. -/
theorem filter_takeLift_other {k : Kind} (hready : k ≠ .recordsReady) (hgap : k ≠ .recordGap) (q : RecordQueue) (r : LiftRecord) (now : Time) :
    (q.takeLift r now).2.1.filter (fun d => d.kind = k) = [] := by
  refine List.filter_eq_nil_iff.2 fun d hd hkind => ?_
  rw [decide_eq_true_eq] at hkind
  rcases kind_of_mem_takeLift hd with h | h
  · exact hready (hkind.symm.trans h)
  · exact hgap (hkind.symm.trans h)

theorem unweighedLift_iff (d : Direction) (weight : Option Nat) : unweighedLift d weight = true ↔ (d = .load ∨ d = .unload) ∧ weight = none := by
  unfold unweighedLift
  rw [Bool.and_eq_true, Option.isNone_iff_eq_none]
  cases d <;> simp [Direction.changesBunk]

theorem unweighedLift_eq (d : Direction) (weight : Option Nat) : unweighedLift d weight = ((d == .load || d == .unload) && weight.isNone) := by
  cases d <;> rfl

theorem payloadEvents_eq (before after : Tally) (sort : Fin 12) (d : Direction) (applied : Int) (now : Time) :
    payloadEvents before after sort d applied now = if d = .load ∧ before.total ≤ before.limit ∧ before.limit < after.total then
      [.payloadLimit before.loadNumber before.nextLift sort applied after.total before.limit now] else [] := by
  unfold payloadEvents
  simp only [Bool.and_eq_true, decide_eq_true_eq, and_assoc]

theorem finalize_tally (l : Lift) (rel : Release) (now : Time) (s : State) : (finalize l rel now s).1.tally =
    s.tally.apply l.sort (directionOf l.origin rel.destination) s.weigh.result.weight := rfl

theorem finalize_records (l : Lift) (rel : Release) (now : Time) (s : State) : (finalize l rel now s).1.records =
    (s.records.takeLift (liftRecord s.tally l rel now s.weigh.result) s.time).1 := rfl

/-- The state and the occurrences of a finalization, found among whatever else occurred, are what R106 asks for. The lift is finalized
in a state `u` that has the clock, tally, queue and window result of `s`. -/
theorem State.reports.finalizes {s t u : State} {ds : List Detail} {l : Lift} {rel : Release} {result : WindowResult}
    (h : s.reports t ds)
    (hf : ∀ k ∈ liftKinds, ds.filter (fun d => d.kind = k) = (finalize l rel s.time u).2.filter (fun d => d.kind = k))
    (ht : t.tally = (finalize l rel s.time u).1.tally) (hq : t.records = (finalize l rel s.time u).1.records)
    (htally : u.tally = s.tally) (hrecords : u.records = s.records) (htime : u.time = s.time) (hresult : u.weigh.result = result) :
    s.finalizes t l rel result := by
  subst hresult
  let lr := liftRecord s.tally l rel s.time u.weigh.result
  have hfilter : ∀ k ∈ liftKinds, ds.filter (fun d => d.kind = k) = (s.records.takeLift lr s.time).2.1.filter (fun d => d.kind = k)
      ++ (if k = .liftUnweighed then unweighedEvents lr u.weigh.result else [])
      ++ (if k = .payloadLimit then
          payloadEvents s.tally (s.tally.apply l.sort lr.direction u.weigh.result.weight) l.sort lr.direction lr.applied s.time else [])
      ++ (if k = .liftDone then [liftDoneEvent lr u.weigh.result] else []) := fun k hk => by
    rw [hf k hk, filter_finalize, htally, hrecords, htime]
  have htally' : t.tally = s.tally.apply l.sort lr.direction u.weigh.result.weight := by
    rw [ht, finalize_tally, htally]
    rfl
  have hrecords' : t.records = (s.records.takeLift lr s.time).1 := by
    rw [hq, finalize_records, htally, hrecords, htime]
  refine ⟨htally', fun hroom => ?_, fun hfull => hrecords'.trans (takeLift_folded hfull lr s.time), h.occurred ?_, h.occursIff ?_ ?_,
    h.occursIff ?_ ?_, h.occursIff ?_ ?_, h.occursIff ?_ ?_⟩
  · rw [hrecords', takeLift_admitted hroom]
    exact ⟨rfl, rfl, rfl, { lr with gap := s.records.gap.part }, rfl, rfl, rfl, rfl, rfl, rfl, rfl, rfl, rfl, rfl, rfl, rfl, rfl, rfl, rfl,
      rfl, rfl, rfl, rfl, rfl, unweighedLift_eq _ _, part_eq _⟩
  · refine (hfilter .liftDone (by decide)).trans ?_
    rw [filter_takeLift_other Kind.noConfusion Kind.noConfusion]
    rfl
  · intro hunweighed
    refine (hfilter .liftUnweighed (by decide)).trans ?_
    rw [filter_takeLift_other Kind.noConfusion Kind.noConfusion, unweighedEvents, if_pos rfl,
      if_pos (show lr.unweighed = true from (unweighedLift_iff _ _).2 hunweighed)]
    rfl
  · intro hweighed
    refine (hfilter .liftUnweighed (by decide)).trans ?_
    rw [filter_takeLift_other Kind.noConfusion Kind.noConfusion, unweighedEvents, if_pos rfl,
      if_neg (show ¬lr.unweighed = true from fun hu => hweighed ((unweighedLift_iff _ _).1 hu))]
    rfl
  · intro (hover : lr.direction = .load ∧ _ ∧ _)
    refine (hfilter .payloadLimit (by decide)).trans ?_
    rw [htally'] at hover ⊢
    rw [filter_takeLift_other Kind.noConfusion Kind.noConfusion, payloadEvents_eq, if_pos rfl, if_pos hover]
    rfl
  · intro (hwithin : ¬(lr.direction = .load ∧ _ ∧ _))
    refine (hfilter .payloadLimit (by decide)).trans ?_
    rw [htally'] at hwithin
    rw [filter_takeLift_other Kind.noConfusion Kind.noConfusion, payloadEvents_eq, if_pos rfl, if_neg hwithin]
    rfl
  · intro hgap
    refine (hfilter .recordGap (by decide)).trans ?_
    rw [filter_takeLift_gap, if_pos hgap]
    rfl
  · intro hgap
    refine (hfilter .recordGap (by decide)).trans ?_
    rw [filter_takeLift_gap, if_neg hgap]
    rfl
  · intro hready
    refine (hfilter .recordsReady (by decide)).trans ?_
    rw [filter_takeLift_ready, if_pos hready]
    rfl
  · intro hready
    refine (hfilter .recordsReady (by decide)).trans ?_
    rw [filter_takeLift_ready, if_neg hready]
    rfl

/-- Settles O22. -/
theorem regripExpiryFinalizesTheLift : Obligations.RegripExpiryFinalizesTheLift := by
  refine fun s => ⟨fun l rel hs => ?_, fun hnot => ?_⟩
  · intro rows
    let r := finalize l rel s.time s
    let t := (r.1.raiseAll r.2).clearOverloadRow
    have hexpiry : regripTimerExpiry s = t := by
      unfold regripTimerExpiry
      rw [hs]
      exact if_pos rfl
    have hreports : s.reports t r.2 := State.raiseAll_reports r.1 r.2
    have hframe := regripTimerExpiry_frame s
    rw [hexpiry] at hframe
    exact ⟨t, congrArg _ hexpiry, rfl, rfl, rfl, hreports.finalizes (u := s) (fun _ _ => rfl) rfl rfl rfl rfl rfl rfl, hframe⟩
  · show Host.Outcome.next (regripTimerExpiry s) = _
    unfold regripTimerExpiry
    split
    · next l rel expiry hs =>
      have hlater : expiry ≠ s.time := fun he => hnot l rel (by rw [hs, he])
      rw [if_neg hlater]
    all_goals rfl

end Sys2Proof.Machine
end

section
/-! The lift tracker at a scan completion (R53 to R60, R68, R74). -/
namespace Sys2Proof.Machine

/-! ### The tracker's step, transition by transition (R57 to R60, R68) -/

section
variable {v : ScanView} {s : State}

theorem track_grips (hg : v.scan.gripping s.weigh.params = true) (hs : s.tracker.state = .empty) : track v s =
    ({ s with tracker := { s.tracker with state := .gripped (newLift s.tracker v) }, weigh := s.weigh.latch v.tableValid v.scan.time },
      []) := by
  rw [track_of_gripping v s hg, trackGripping, hs]

theorem track_regrips (hg : v.scan.gripping s.weigh.params = true) {l : Lift} {rel : Release} {e : Time}
    (hs : s.tracker.state = .releaseHold l rel e) : track v s =
    ({ s with tracker := { s.tracker with state := .gripped (regripped l) }, weigh := s.weigh.thaw v.scan.time }, []) := by
  rw [track_of_gripping v s hg, trackGripping, hs]

theorem track_finalizes (hg : v.scan.gripping s.weigh.params = false) (hr : v.scan.releasing s.weigh.params = true) {l : Lift}
    (hs : s.tracker.state = .gripped l) (h0 : s.weigh.params.regrip = 0) :
    track v s = finalize l (releaseOf v) v.scan.time s := by
  rw [track_of_releasing v s hg hr, trackReleasing, hs]
  exact if_pos h0

theorem track_releases (hg : v.scan.gripping s.weigh.params = false) (hr : v.scan.releasing s.weigh.params = true) {l : Lift}
    (hs : s.tracker.state = .gripped l) (h0 : s.weigh.params.regrip ≠ 0) : track v s =
    ({ s with
        tracker := { s.tracker with state := .releaseHold l (releaseOf v) (addMs v.scan.time s.weigh.params.regrip) }
        weigh := s.weigh.freeze }, []) := by
  rw [track_of_releasing v s hg hr, trackReleasing, hs]
  exact if_neg h0

theorem track_leavesCalibration (hg : v.scan.gripping s.weigh.params = false) (hr : v.scan.releasing s.weigh.params = true)
    (hs : s.tracker.state = .calibration) : track v s =
    ({ s with tracker := { s.tracker with state := .empty }, weigh := s.weigh.leaveCalibration }, []) := by
  rw [track_of_releasing v s hg hr, trackReleasing, hs]

/-- A gripping scan makes a transition from EMPTY and RELEASE_HOLD only. -/
theorem track_gripping_stays (hg : v.scan.gripping s.weigh.params = true) (hempty : s.tracker.state ≠ .empty)
    (hhold : ∀ l rel e, s.tracker.state ≠ .releaseHold l rel e) : track v s = (s, []) := by
  rw [track_of_gripping v s hg, trackGripping]
  split
  · next h => exact absurd h hempty
  · next l rel e h => exact absurd h (hhold l rel e)
  all_goals rfl

/-- A releasing scan makes a transition from GRIPPED and CALIBRATION only. -/
theorem track_releasing_stays (hg : v.scan.gripping s.weigh.params = false) (hr : v.scan.releasing s.weigh.params = true)
    (hgripped : ∀ l, s.tracker.state ≠ .gripped l) (hcal : s.tracker.state ≠ .calibration) : track v s = (s, []) := by
  rw [track_of_releasing v s hg hr, trackReleasing]
  split
  · next l h => exact absurd h (hgripped l)
  · next h => exact absurd h hcal
  all_goals rfl

/-- Without a gripping scan EMPTY, RELEASE_HOLD and HELD stay. -/
theorem track_not_gripping_stays (hg : v.scan.gripping s.weigh.params = false) (hgripped : ∀ l, s.tracker.state ≠ .gripped l)
    (hcal : s.tracker.state ≠ .calibration) : track v s = (s, []) := by
  cases hr : v.scan.releasing s.weigh.params with
  | true => exact track_releasing_stays hg hr hgripped hcal
  | false => exact track_neither v s hg hr

/-- Without a releasing scan GRIPPED, CALIBRATION and HELD stay. -/
theorem track_not_releasing_stays (hr : v.scan.releasing s.weigh.params = false) (hempty : s.tracker.state ≠ .empty)
    (hhold : ∀ l rel e, s.tracker.state ≠ .releaseHold l rel e) : track v s = (s, []) := by
  cases hg : v.scan.gripping s.weigh.params with
  | true => exact track_gripping_stays hg hempty hhold
  | false => exact track_neither v s hg hr

/-- HELD stays. -/
theorem track_held (hs : s.tracker.state = .held) : track v s = (s, []) := by
  cases hg : v.scan.gripping s.weigh.params with
  | true => exact track_gripping_stays hg (by rw [hs]; exact nofun) (by rw [hs]; exact nofun)
  | false => exact track_not_gripping_stays hg (by rw [hs]; exact nofun) (by rw [hs]; exact nofun)

end

/-! ### The state that the tracker finds (R74, R89) -/

section
variable (run : ScanRun) (raw : Vector (BitVec 16) 12) (s : State)

/-- The overload after the scan, before the tracker's step (R101). -/
def scanOverload : Bool := evaluateOverload s.weigh (scanView raw s) (scanWeight (scanView raw s) s)

@[simp] theorem beforeTrack_overload : (beforeTrack run raw s).weigh.overload = scanOverload raw s := rfl

/-- The scan asserts the overload under a lift context (R74). -/
def assertsOverload : Bool := !s.weigh.overload && scanOverload raw s && s.weigh.context.isLift

/-- The lift in progress, its OVERLOAD_SEEN flag set when the scan asserts the overload (R74). -/
def seenLift (l : Lift) : Lift := { l with overloadSeen := l.overloadSeen || assertsOverload raw s }

theorem beforeTrack_tracker : (beforeTrack run raw s).tracker = ⟨s.tracker.state.mapLift (seenLift raw s), s.tracker.sort⟩ := by
  have h : (beforeTrack run raw s).tracker = if assertsOverload raw s then s.tracker.seeOverload else s.tracker :=
    takeWeight_tracker _ _ (takeGeometry run raw (scanView raw s) s)
  rw [h]
  unfold seenLift
  cases assertsOverload raw s with
  | true => simp only [Bool.or_true]; rfl
  | false =>
    simp only [Bool.or_false]
    obtain ⟨state, sort⟩ := s.tracker
    cases state <;> rfl

theorem beforeTrack_state : (beforeTrack run raw s).tracker.state = s.tracker.state.mapLift (seenLift raw s) := by
  rw [beforeTrack_tracker]

/-- A releasing scan asserts no overload (R101). -/
theorem scanOverload_of_releasing (hr : (scanView raw s).scan.releasing s.weigh.params = true) (ho : s.weigh.overload = false) :
    scanOverload raw s = false := by
  unfold scanOverload evaluateOverload
  split
  · rw [ho, hr]
    split
    · simp [overloadAfter]
    · rfl
  · exact ho

theorem assertsOverload_of_releasing (hr : (scanView raw s).scan.releasing s.weigh.params = true) : assertsOverload raw s = false := by
  unfold assertsOverload
  cases ho : s.weigh.overload with
  | true => rfl
  | false => rw [scanOverload_of_releasing raw s hr ho]; rfl

theorem seenLift_of_releasing (hr : (scanView raw s).scan.releasing s.weigh.params = true) (l : Lift) : seenLift raw s l = l := by
  unfold seenLift
  rw [assertsOverload_of_releasing raw s hr, Bool.or_false]

end

/-- A releasing scan leaves the window (R89, R100). -/
theorem windowAfter_of_releasing {w : Weigh} {v : ScanView} (hr : v.scan.releasing w.params = true) (weight : Option Int) :
    windowAfter w v weight = w.window := by
  unfold windowAfter
  split
  · rfl
  · next c => rw [LiftContext.judges, hr, Bool.not_true, Bool.and_false, if_neg Bool.false_ne_true]
  · rw [if_pos hr]

theorem beforeTrack_result_of_releasing (run : ScanRun) {raw : Vector (BitVec 16) 12} {s : State}
    (hr : (scanView raw s).scan.releasing s.weigh.params = true) : (beforeTrack run raw s).weigh.result = s.weigh.result := by
  unfold Weigh.result
  rw [beforeTrack_window, windowAfter_of_releasing hr, beforeTrack_context]

/-- The kinds of a finalization come from the tracker's step alone. -/
theorem filter_scan_lift (run : ScanRun) (raw : Vector (BitVec 16) 12) (s : State) {k : Kind} (hk : k ∈ liftKinds) :
    (afterScan run raw s).2.flatten.filter (fun d => d.kind = k)
      = (track (scanView raw s) (beforeTrack run raw s)).2.filter (fun d => d.kind = k) := by
  have hnot : ∀ j, j ∉ liftKinds → k ≠ j := fun j hj h => hj (h ▸ hk)
  rw [filter_scanEvents]
  dsimp only
  rw [if_neg (hnot .channelBand (by decide)), if_neg (hnot .refFault (by decide)), if_neg (hnot .overload (by decide)),
    if_neg (hnot .opDone (by decide)), if_neg (hnot .permitHold (by decide))]
  simp only [List.nil_append, List.append_nil]

section
variable {run : ScanRun} {raw : Vector (BitVec 16) 12} {s : State} {l : Lift}

/-- At a releasing scan the tracker finds the lift as it was. -/
theorem beforeTrack_state_of_releasing (hr : (scanView raw s).scan.releasing s.weigh.params = true) (hs : s.tracker.state = .gripped l) :
    (beforeTrack run raw s).tracker.state = .gripped l := by
  rw [beforeTrack_state, hs, TrackerState.mapLift, seenLift_of_releasing raw s hr]

/-- The completion whose release ends the lift at once, there being no regrip time (R59). -/
theorem track_completion_finalizes (hg : (scanView raw s).scan.gripping s.weigh.params = false)
    (hr : (scanView raw s).scan.releasing s.weigh.params = true) (hs : s.tracker.state = .gripped l) (h0 : s.weigh.params.regrip = 0) :
    track (scanView raw s) (beforeTrack run raw s) = finalize l (releaseOf (scanView raw s)) s.time (beforeTrack run raw s) :=
  track_finalizes (s := beforeTrack run raw s) hg hr (beforeTrack_state_of_releasing hr hs) h0

theorem completeScan_finalizes (hg : (scanView raw s).scan.gripping s.weigh.params = false)
    (hr : (scanView raw s).scan.releasing s.weigh.params = true) (hs : s.tracker.state = .gripped l) (h0 : s.weigh.params.regrip = 0) :
    s.finalizes (completeScan run raw s) l (releaseOf (scanView raw s)) s.weigh.result := by
  have htrack := track_completion_finalizes (run := run) hg hr hs h0
  refine (completeScan_reports run raw s).finalizes (u := beforeTrack run raw s) (fun k hk => ?_) ?_ ?_ rfl rfl rfl
    (beforeTrack_result_of_releasing run hr)
  · rw [filter_scan_lift run raw s hk, htrack]
  · rw [completeScan_tally, htrack]
  · rw [completeScan_records, htrack]

/-- Tracker and weigh unit after that completion (R63, R95). -/
theorem completeScan_finalized (hg : (scanView raw s).scan.gripping s.weigh.params = false)
    (hr : (scanView raw s).scan.releasing s.weigh.params = true) (hs : s.tracker.state = .gripped l) (h0 : s.weigh.params.regrip = 0) :
    (completeScan run raw s).tracker.state = .empty ∧ (completeScan run raw s).weigh.context = .absent
      ∧ (completeScan run raw s).weigh.window = ⟨.unopened, [], false⟩ ∧ (completeScan run raw s).weigh.overload = false := by
  rw [completeScan_tracker, completeScan_context, completeScan_window, completeScan_overload,
    track_completion_finalizes (run := run) hg hr hs h0]
  exact ⟨rfl, rfl, rfl, rfl⟩

end

/-- Settles O21. -/
theorem trackerFollowsGripPressure : Obligations.TrackerFollowsGripPressure := by
  intro raw run s hrun hdue hparams
  let v := scanView raw s
  let b := beforeTrack run raw s
  let t := completeScan run raw s
  have htracker : t.tracker = (track v b).1.tracker := completeScan_tracker run raw s
  have hstate : b.tracker.state = s.tracker.state.mapLift (seenLift raw s) := beforeTrack_state run raw s
  have hsort : b.tracker.sort = s.tracker.sort := by rw [beforeTrack_tracker]
  have hgrip := gripping_iff s.weigh.params v.scan
  have hrelease := releasing_iff s.weigh.params v.scan
  have hexclusive : v.scan.releasing s.weigh.params = true → v.scan.gripping s.weigh.params = false :=
    not_gripping_of_releasing (release_lt_grip_of_weighParamsOk hparams)
  have hbunk : t.zones.summary.any Summary.bunk = v.bunkZone := by
    rw [scanView_bunkZone, completeScan_zones]
  refine ⟨t, v.scan, v.pose, exec_scanCompletion hrun hdue, ?scan, ?sort, ?pose, ?_⟩
  case scan => rw [completeScan_scanner_eq, startWaiting_latest]; rfl
  case sort => rw [htracker, track_sort, hsort]
  case pose => rw [completeScan_pose]; rfl
  intro gripping releasing place release seen
  have hnot {c : Prop} {x : Bool} (h : x = true ↔ c) (hc : ¬c) : x = false := Bool.eq_false_iff.2 (mt h.1 hc)
  have hstays (h : track v b = (b, [])) : t.tracker.state = s.tracker.state.mapLift (seenLift raw s) ∧ t.weigh.overload = scanOverload raw s := by
    rw [htracker, completeScan_overload run raw s, h]
    exact ⟨hstate, rfl⟩
  have hplace : place = placeOf v.bunkZone := congrArg placeOf hbunk
  have hreleaseOf : releaseOf v = release := by
    show (⟨_, _, _, _⟩ : Release) = ⟨place, _, _, _⟩
    rw [hplace]
    rfl
  have hseen (l : Lift) (h : t.weigh.overload = scanOverload raw s) : seenLift raw s l = { l with overloadSeen := seen l } := by
    show _ = { l with overloadSeen := l.overloadSeen || (!s.weigh.overload && t.weigh.overload && s.weigh.context.isLift) }
    rw [h]
    rfl
  refine ⟨fun hs => ?held, fun hs hng => ?empty, fun hs hg => ?grips, fun hs => ?calibration,
    fun l hs => ⟨fun hnr => ?gripped, fun hr h0 => ?finalized, fun hr h0 => ?released⟩, fun l rel e hs => ⟨fun hng => ?hold, fun hg => ?regrips⟩⟩
  all_goals rw [hs] at hstate hstays
  case held => exact (hstays (track_held hstate)).1
  case empty => exact (hstays (track_not_gripping_stays (hnot hgrip hng) (by rw [hstate]; exact nofun) (by rw [hstate]; exact nofun))).1
  case grips =>
    rw [htracker, track_grips (s := b) (hgrip.2 hg) hstate]
    show TrackerState.gripped (newLift b.tracker v) = _
    rw [newLift, hsort, hplace]
    rfl
  case calibration =>
    by_cases hr : releasing
    · rw [if_pos hr, htracker, track_leavesCalibration (s := b) (hexclusive (hrelease.2 hr)) (hrelease.2 hr) hstate]
    · rw [if_neg hr]
      exact (hstays (track_not_releasing_stays (hnot hrelease hr) (by rw [hstate]; exact nofun) (by rw [hstate]; exact nofun))).1
  case gripped =>
    have h := hstays (track_not_releasing_stays (hnot hrelease hnr) (by rw [hstate]; exact nofun) (by rw [hstate]; exact nofun))
    rw [h.1, ← hseen l h.2]
    rfl
  case finalized =>
    have hr' := hrelease.2 hr
    obtain ⟨hend, hcontext, hwindow, hover⟩ := completeScan_finalized (run := run) (hexclusive hr') hr' hs h0
    have hfinalizes := completeScan_finalizes (run := run) (hexclusive hr') hr' hs h0
    rw [hreleaseOf] at hfinalizes
    exact ⟨hend, hcontext, hwindow, hover, hfinalizes⟩
  case released =>
    have hr' := hrelease.2 hr
    rw [TrackerState.mapLift, seenLift_of_releasing raw s hr'] at hstate
    rw [htracker, track_releases (s := b) (hexclusive hr') hr' hstate h0, hreleaseOf]
    rfl
  case hold =>
    have h := hstays (track_not_gripping_stays (hnot hgrip hng) (by rw [hstate]; exact nofun) (by rw [hstate]; exact nofun))
    rw [h.1, ← hseen l h.2]
    rfl
  case regrips =>
    have htrack := track_regrips (s := b) (hgrip.2 hg) hstate
    have hover : t.weigh.overload = scanOverload raw s := by
      rw [completeScan_overload]
      exact congrArg (fun r => r.1.weigh.overload) htrack
    rw [htracker, htrack]
    show TrackerState.gripped (regripped (seenLift raw s l)) = _
    rw [hseen l hover]
    rfl

end Sys2Proof.Machine
end

section
/-! The weigh window over a scan completion (R80, R85 to R95, R100), and its result (R96). -/
namespace Sys2Proof.Machine

/-! ### The later steps of a judged scan (R91 to R93) -/

namespace Window

/-- The stillness test where there is a stillness count (R92, R100). -/
def passesStill (still : Option (Nat × Nat)) (samples : List Int) : Prop :=
  ∃ n tolerance, still = some (n, tolerance) ∧ lastStill n tolerance samples

theorem passesStill_some (n tolerance : Nat) (samples : List Int) :
    passesStill (some (n, tolerance)) samples ↔ lastStill n tolerance samples := by
  refine ⟨fun ⟨_, _, heq, h⟩ => ?_, fun h => ⟨n, tolerance, rfl, h⟩⟩
  cases heq
  exact h

theorem closeSteps_cases (budget : Nat) (still : Option (Nat × Nat)) (w : Window) :
    (passesStill still w.samples → w.closeSteps budget still = { w with state := .closed .still })
    ∧ (¬passesStill still w.samples → budget ≤ w.samples.length → w.closeSteps budget still = { w with state := .closed .full })
    ∧ (¬passesStill still w.samples → w.samples.length < budget → w.closeSteps budget still = w) := by
  cases still with
  | none =>
    exact ⟨fun ⟨_, _, heq, _⟩ => (nomatch heq), fun _ hfull => if_pos hfull, fun _ hroom => if_neg (not_le.2 hroom)⟩
  | some x =>
    obtain ⟨n, tolerance⟩ := x
    rw [passesStill_some]
    exact ⟨fun h => closeSteps_still h budget, closeSteps_full, closeSteps_open⟩

/-- The later steps are those of R91 to R93. -/
theorem laterSteps_stepsTo {v : ScanView} {sample : Option Int} {bandFails : Prop} {accepted : Int → Prop}
    (hband : liftBandFails v.scan = true ↔ bandFails) (haccepted : ∀ x, sample = some x ↔ accepted x)
    (budget : Nat) (still : Option (Nat × Nat)) (w : Window) :
    w.stepsTo bandFails accepted budget still (w.laterSteps v budget still sample) := by
  have hgood : ¬bandFails → liftBandFails v.scan = false := fun h => Bool.eq_false_iff.2 (mt hband.1 h)
  refine ⟨fun hclosed => if_neg hclosed, fun hopen hfail => ?fault, fun hopen hok hnone => ?noSample, fun x hopen hok hx => ?sample⟩
  case fault =>
    unfold laterSteps
    rw [if_pos hopen, if_pos (hband.2 hfail)]
  case noSample =>
    cases hs : sample with
    | none =>
      unfold laterSteps
      rw [if_pos hopen, hgood hok]
      rfl
    | some x => exact absurd ((haccepted x).1 hs) (hnone x)
  case sample =>
    rw [(haccepted x).2 hx, laterSteps_of_sample hopen (hgood hok)]
    obtain ⟨hstill, hfull, hroom⟩ := closeSteps_cases budget still { w with samples := w.samples ++ [x] }
    exact ⟨hstill, hfull, fun h hlt => (hroom h hlt).trans (by rw [hopen])⟩

end Window

/-! ### The zone step (R88 to R90) -/

namespace Window

section
variable {v : ScanView} {w : Window}

theorem zoneStep_of_unopened (hs : w.state = .unopened) : w.zoneStep v = w.openStep v := by
  unfold zoneStep
  rw [hs]

theorem zoneStep_of_unopened_valid (hs : w.state = .unopened) (hv : v.tableValid = true) :
    w.zoneStep v = { w with state := if v.weighZone = true then .opened else .unopened } := by
  rw [zoneStep_of_unopened hs, openStep, if_pos hv]
  split
  · rfl
  · rw [← hs]

theorem zoneStep_of_unopened_invalid (hs : w.state = .unopened) (hv : v.tableValid = false) : w.zoneStep v = { w with missed := true } := by
  rw [zoneStep_of_unopened hs, openStep, hv]
  rfl

theorem zoneStep_of_running (hs : w.state = .opened ∨ w.state = .suspended) :
    w.zoneStep v = { w with state := if v.weighZone = true then .opened else .suspended } := by
  unfold zoneStep
  rcases hs with hs | hs
  · rw [hs]
    dsimp only
    split
    · rw [← hs]
    · rfl
  · rw [hs]
    dsimp only
    split
    · rfl
    · rw [← hs]

theorem zoneStep_of_other (hn : w.state ≠ .unopened) (ho : w.state ≠ .opened) (hs : w.state ≠ .suspended) : w.zoneStep v = w := by
  unfold zoneStep
  split
  · next h => exact absurd h hn
  · next h => exact absurd h ho
  · next h => exact absurd h hs
  all_goals rfl

end

end Window

/-! ### The sample test and the history (R85, R86) -/

theorem holding_iff (p : WeighParams) (scan : Scan) :
    scan.holding p = true ↔ scan.band[2] = .inside ∧ (p.release : Int) ≤ scan.scaled[2] := by
  simp [Scan.holding, Scan.gripIn]

theorem liftBandFails_iff (scan : Scan) : liftBandFails scan = true ↔ scan.band[0] ≠ .inside ∨ scan.band[1] ≠ .inside := by
  simp only [liftBandFails, Bool.or_eq_true, bne_iff_ne]

theorem entryHolding_iff (e : Option HistoryEntry) : entryHolding e = true ↔ ∃ h, e = some h ∧ h.holding = true := by
  cases e <;> simp [entryHolding]

theorem withinMotion_iff (motion : Nat) (change : Int) : withinMotion motion change = true ↔ -(motion : Int) ≤ change ∧ change ≤ motion := by
  simp only [withinMotion, Bool.and_eq_true, decide_eq_true_eq]

/-- The motion test: the rates of the scan and of the newer entry are there and differ by the motion limit at most (R86). -/
theorem steady_iff (motion : Nat) (rates : Option Rates) (newer : Option HistoryEntry) :
    steady motion rates (newer.bind HistoryEntry.rates) = true ↔ ∃ now before h, rates = some now ∧ newer = some h ∧ h.rates = some before
      ∧ (-(motion : Int) ≤ now.slew - before.slew ∧ now.slew - before.slew ≤ motion)
      ∧ -(motion : Int) ≤ now.boom - before.boom ∧ now.boom - before.boom ≤ motion := by
  constructor
  · intro h
    cases rates with
    | none => cases h
    | some now =>
      cases hbefore : newer.bind HistoryEntry.rates with
      | none => rw [hbefore] at h; cases h
      | some before =>
        rw [hbefore, steady, Bool.and_eq_true, withinMotion_iff, withinMotion_iff] at h
        obtain ⟨e, he, hrates⟩ := Option.bind_eq_some_iff.1 hbefore
        exact ⟨now, before, e, rfl, he, hrates, h⟩
  · rintro ⟨now, before, e, rfl, rfl, hrates, h⟩
    rw [Option.bind_some, hrates, steady, Bool.and_eq_true, withinMotion_iff, withinMotion_iff]
    exact h

theorem acceptedSample_iff (w : Weigh) (motion : Nat) (v : ScanView) (weight : Option Int) (x : Int) :
    acceptedSample w motion v weight = some x ↔ weight = some x ∧ v.scan.holding w.params = true ∧ entryHolding w.newer = true
      ∧ entryHolding w.older = true ∧ steady motion v.pose.rates (w.newer.bind HistoryEntry.rates) = true := by
  unfold acceptedSample
  split
  · next h =>
    simp only [Bool.and_eq_true, and_assoc] at h
    exact ⟨fun hx => ⟨hx, h⟩, fun hx => hx.1⟩
  · next h =>
    refine iff_of_false nofun fun ⟨_, hrest⟩ => h ?_
    simp only [Bool.and_eq_true, and_assoc]
    exact hrest

theorem judges_iff (c : LiftContext) (p : WeighParams) (scan : Scan) : c.judges p scan = true ↔
    c.phase = .gripped ∧ c.latchScan ≠ scan.time ∧ c.thawScan ≠ some scan.time ∧ scan.releasing p = false := by
  simp only [LiftContext.judges, Bool.and_eq_true, beq_iff_eq, bne_iff_ne, Bool.not_eq_true', and_assoc]

/-- The tracker's step leaves the history (R85). -/
theorem track_history (v : ScanView) (s : State) :
    (track v s).1.weigh.newer = s.weigh.newer ∧ (track v s).1.weigh.older = s.weigh.older := by
  have h := track_transition v s
  generalize (track v s).1.tracker.state = k at h
  generalize (track v s).1.weigh = w at h
  cases h <;> exact ⟨rfl, rfl⟩

theorem completeScan_history (run : ScanRun) (raw : Vector (BitVec 16) 12) (s : State) :
    (completeScan run raw s).weigh.newer = some ⟨(scanView raw s).scan.holding s.weigh.params, (scanView raw s).pose.rates⟩
      ∧ (completeScan run raw s).weigh.older = s.weigh.newer := by
  have hparams : (settleLatest s (track (scanView raw s) (beforeTrack run raw s)).1.weigh).params = s.weigh.params := by
    rw [settleLatest_params, track_params]
    rfl
  have hnewer : (settleLatest s (track (scanView raw s) (beforeTrack run raw s)).1.weigh).newer = s.weigh.newer := by
    rw [settleLatest_newer, (track_history _ _).1]
    rfl
  rw [completeScan_weigh]
  dsimp only [Weigh.enterHistory]
  rw [hparams, hnewer]
  exact ⟨rfl, rfl⟩

end Sys2Proof.Machine
end

section
/-! What a scan completion does to window and context (R80, R89 to R95, R100). -/
namespace Sys2Proof.Machine

/-! ### The window as the weigh unit judges the scan (R89, R100) -/

section
variable {w : Weigh} {v : ScanView} {weight : Option Int}

theorem windowAfter_lift_unjudged {c : LiftContext} (hc : w.context = .lift c) (hj : c.judges w.params v.scan = false) :
    windowAfter w v weight = w.window := by
  simp only [windowAfter, hc, hj, Bool.false_eq_true, if_false]

theorem windowAfter_lift_judged {c : LiftContext} (hc : w.context = .lift c) (hj : c.judges w.params v.scan = true) :
    windowAfter w v weight =
      (w.window.zoneStep v).laterSteps v c.budget (some (c.still, c.tolerance)) (acceptedSample w c.motion v weight) := by
  simp only [windowAfter, hc, hj, if_true]

theorem windowAfter_calibration {c : CalContext} (hc : w.context = .calibration c) (hr : v.scan.releasing w.params = false) :
    windowAfter w v weight = w.window.laterSteps v c.budget none (acceptedSample w c.motion v weight) := by
  simp only [windowAfter, hc, hr, Bool.false_eq_true, if_false]

theorem windowAfter_absent (hc : w.context = .absent) : windowAfter w v weight = w.window := by simp only [windowAfter, hc]

end

/-! ### The tracker's report to the weigh unit (R94, R95) -/

theorem freeze_window (w : Weigh) : w.freeze.window =
    { w.window with state := if w.window.state = .opened ∨ w.window.state = .suspended then .frozen else w.window.state } := by
  cases h : w.window.state <;> simp [Weigh.freeze, h] <;> rw [← h]

theorem thaw_window (now : Time) (w : Weigh) : (w.thaw now).window =
    { w.window with state := if w.window.state = .frozen then .suspended else w.window.state } := by
  cases h : w.window.state <;> simp [Weigh.thaw, h] <;> rw [← h]

theorem freeze_context {w : Weigh} {c : LiftContext} (hc : w.context = .lift c) :
    w.freeze.context = .lift { c with phase := .released } := by
  show w.context.setPhase .released none = _
  rw [hc]
  rfl

theorem thaw_context {w : Weigh} {c : LiftContext} (hc : w.context = .lift c) (now : Time) :
    (w.thaw now).context = .lift { c with phase := .gripped, thawScan := some now } := by
  show w.context.setPhase .gripped (some now) = _
  rw [hc]
  rfl

/-- Context and window after a completion are those of the tracker's step. -/
theorem completeScan_reported {run : ScanRun} {raw : Vector (BitVec 16) 12} {s : State} {x : State × List Detail}
    (h : track (scanView raw s) (beforeTrack run raw s) = x) :
    (completeScan run raw s).weigh.context = x.1.weigh.context ∧ (completeScan run raw s).weigh.window = x.1.weigh.window := by
  rw [completeScan_context, completeScan_window, h]
  exact ⟨rfl, rfl⟩

/-- Settles O25. -/
theorem windowAtAScanCompletion : Obligations.WindowAtAScanCompletion := by
  intro raw run s hrun hdue hparams
  let v := scanView raw s
  let b := beforeTrack run raw s
  let t := completeScan run raw s
  let u := windowAfter s.weigh v (scanWeight v s)
  have hzone : t.zones.summary.any Summary.weigh = v.weighZone := by rw [scanView_weighZone, completeScan_zones]
  have hgrip := gripping_iff s.weigh.params v.scan
  have hrelease := releasing_iff s.weigh.params v.scan
  have hholding := holding_iff s.weigh.params v.scan
  have hexclusive : v.scan.releasing s.weigh.params = true → v.scan.gripping s.weigh.params = false :=
    not_gripping_of_releasing (release_lt_grip_of_weighParamsOk hparams)
  have hstate : b.tracker.state = s.tracker.state.mapLift (seenLift raw s) := beforeTrack_state run raw s
  have hvalid : v.tableValid = true ↔ s.table.state = .valid := beq_iff_eq
  have hnot {c : Prop} {x : Bool} (h : x = true ↔ c) (hc : ¬c) : x = false := Bool.eq_false_iff.2 (mt h.1 hc)
  obtain ⟨hnewer, holder⟩ := completeScan_history run raw s
  refine ⟨t, v.scan, v.pose, u, exec_scanCompletion hrun hdue, ?scan, ?pose, ?_⟩
  case scan => rw [completeScan_scanner_eq, startWaiting_latest]; rfl
  case pose => rw [completeScan_pose]; rfl
  intro p w gripping releasing holding valid inZone bandFails held within accepted
  have haccepted (motion : Nat) (x : Int) : acceptedSample s.weigh motion v (scanWeight v s) = some x ↔ accepted motion x := by
    rw [acceptedSample_iff, hholding, entryHolding_iff, entryHolding_iff, steady_iff]
  have hsteps (motion budget : Nat) (still : Option (Nat × Nat)) (z : Window) :
      z.stepsTo bandFails (accepted motion) budget still
        (z.laterSteps v budget still (acceptedSample s.weigh motion v (scanWeight v s))) :=
    Window.laterSteps_stepsTo (liftBandFails_iff v.scan) (haccepted motion) budget still z
  refine ⟨?entered, holder, fun hc => windowAfter_absent hc, fun c hc => ⟨fun hj => ?unjudged, fun hj => ?judged⟩,
    fun c hc => ⟨fun hr => windowAfter_of_releasing (hrelease.2 hr) _, fun hr => ?calibration⟩, ?reported⟩
  case entered =>
    rw [hnewer, Bool.eq_iff_iff.2 (hholding.trans (decide_eq_true_iff (p := holding)).symm)]
  case unjudged =>
    refine windowAfter_lift_unjudged hc (Bool.eq_false_iff.2 fun h => hj ?_)
    obtain ⟨hphase, hlatch, hthaw, hr⟩ := (judges_iff c s.weigh.params v.scan).1 h
    exact ⟨hphase, hlatch, hthaw, fun hrel => by cases hr.symm.trans (hrelease.2 hrel)⟩
  case judged =>
    obtain ⟨hphase, hlatch, hthaw, hr⟩ := hj
    have hjudges := (judges_iff c s.weigh.params v.scan).2 ⟨hphase, hlatch, hthaw, hnot hrelease hr⟩
    refine ⟨w.zoneStep v, ?_, fun hs hv => ?_, fun hs hv => Window.zoneStep_of_unopened_invalid hs (hnot hvalid hv), fun hs => ?_,
      fun hn ho hs => Window.zoneStep_of_other hn ho hs⟩
    · rw [show u = _ from windowAfter_lift_judged hc hjudges]
      exact hsteps _ _ _ _
    · rw [Window.zoneStep_of_unopened_valid hs (hvalid.2 hv), ← hzone]
    · rw [Window.zoneStep_of_running hs, ← hzone]
  case calibration =>
    rw [show u = _ from windowAfter_calibration hc (hnot hrelease hr)]
    exact hsteps _ _ _ _
  case reported =>
    intro becomes unmoved
    have hstays (h : track v b = (b, [])) : unmoved := completeScan_reported h
    refine ⟨fun hng hnr => hstays (track_neither v b (hnot hgrip hng) (hnot hrelease hnr)), fun hs => ?held, fun hs hr => ?emptyReleasing,
      fun hs hg => ?grips, fun l hs => ⟨fun hg => ?grippedGripping, fun hr h0 => ?finalizes, fun c hc hr h0 => ?releases⟩,
      fun l rel e hs => ⟨fun hr => ?holdReleasing, fun c hc hg => ?regrips⟩, fun hs => ⟨fun hg => ?calGripping, fun hr => ?leaves⟩⟩
    all_goals rw [hs] at hstate
    case held => exact hstays (track_held hstate)
    case emptyReleasing =>
      exact hstays (track_not_gripping_stays (hexclusive (hrelease.2 hr)) (by rw [hstate]; exact nofun) (by rw [hstate]; exact nofun))
    case grips =>
      obtain ⟨hcontext, hwindow⟩ := completeScan_reported (track_grips (s := b) (hgrip.2 hg) hstate)
      refine ⟨hcontext, hwindow.trans ?_⟩
      show (⟨.unopened, [], !v.tableValid⟩ : Window) = _
      rw [show (!v.tableValid) = decide ¬valid by
        by_cases hv : valid
        · simp [hv, hvalid.2 hv]
        · simp [hv, hnot hvalid hv]]
    case grippedGripping =>
      exact hstays (track_gripping_stays (hgrip.2 hg) (by rw [hstate]; exact nofun) (by rw [hstate]; exact nofun))
    case finalizes => exact completeScan_reported (track_finalizes (s := b) (hexclusive (hrelease.2 hr)) (hrelease.2 hr) hstate h0)
    case releases =>
      obtain ⟨hcontext, hwindow⟩ := completeScan_reported (track_releases (s := b) (hexclusive (hrelease.2 hr)) (hrelease.2 hr) hstate h0)
      exact ⟨hcontext.trans (freeze_context (w := b.weigh) hc), hwindow.trans (freeze_window b.weigh)⟩
    case holdReleasing =>
      exact hstays (track_not_gripping_stays (hexclusive (hrelease.2 hr)) (by rw [hstate]; exact nofun) (by rw [hstate]; exact nofun))
    case regrips =>
      obtain ⟨hcontext, hwindow⟩ := completeScan_reported (track_regrips (s := b) (hgrip.2 hg) hstate)
      exact ⟨hcontext.trans (thaw_context (w := b.weigh) hc v.scan.time), hwindow.trans (thaw_window v.scan.time b.weigh)⟩
    case calGripping =>
      exact hstays (track_gripping_stays (hgrip.2 hg) (by rw [hstate]; exact nofun) (by rw [hstate]; exact nofun))
    case leaves =>
      have hr' := hrelease.2 hr
      obtain ⟨hcontext, hwindow⟩ := completeScan_reported (track_leavesCalibration (s := b) (hexclusive hr') hr' hstate)
      refine ⟨hcontext, hwindow.trans ?_⟩
      show (⟨.unopened, [], u.missed⟩ : Window) = _
      rw [show u = w from windowAfter_of_releasing hr' _]

end Sys2Proof.Machine
end

section
/-! The instantaneous weight (R81 to R84), the window result (R95, R96), the overload (R101, R102). -/
namespace Sys2Proof.Machine

/-! ### The instantaneous weight (R81 to R84) -/

/-- The table supplies the cell of a valid pose in a VALID table (R28). -/
theorem supplied_eq_some_iff (g : Geometry) (p : Pose) (cell : Cell) (row : Fin 16) (col : Fin 8) :
    supplied g p = some (cell, row, col) ↔ p.valid = true ∧ g.state = .valid ∧ (∃ x, p.position = some (x, .cell row col))
      ∧ ∃ cells, g.rows[row] = some cells ∧ cells[col] = cell := by
  unfold supplied
  constructor
  · intro h
    split at h
    · next hvalid =>
      rw [Bool.and_eq_true, beq_iff_eq] at hvalid
      split at h
      · next x r c hp =>
        obtain ⟨y, hy, heq⟩ := Option.map_eq_some_iff.1 h
        obtain ⟨cells, hcells, rfl⟩ := Option.map_eq_some_iff.1 hy
        obtain ⟨rfl, rfl, rfl⟩ : _ ∧ r = row ∧ c = col := by simpa using heq
        exact ⟨hvalid.1, hvalid.2, ⟨x, hp⟩, cells, hcells, rfl⟩
      · cases h
      · cases h
    · cases h
  · rintro ⟨hvalid, hstate, ⟨x, hp⟩, cells, hcells, rfl⟩
    rw [if_pos (by rw [hvalid, hstate]; rfl), hp]
    simp only [Geometry.cell, hcells, Option.map_some]

/-- The weight is trim / 1000 × (k × F / 10^6 − e) rounded half up, less the tare (R83). -/
theorem weightOf_bounds (trim tare k : Nat) (e force : Int) :
    let exact := 2 * (trim : Int) * (k * force - e * 1000000)
    let w := weightOf trim tare k e force
    2000000000 * (w + tare) - 1000000000 ≤ exact ∧ exact < 2000000000 * (w + tare) + 1000000000 := by
  intro exact w
  obtain ⟨hlow, hhigh⟩ := roundHalfUp_bounds ((trim : Int) * (k * force - e * 1000000)) 1000000000 (by decide)
  have hw : w + tare = roundHalfUp ((trim : Int) * (k * force - e * 1000000)) 1000000000 := Int.sub_add_cancel _ _
  have hexact : exact = 2 * ((trim : Int) * (k * force - e * 1000000)) := Int.mul_assoc _ _ _
  rw [hw, hexact]
  omega

section
variable {raw : Vector (BitVec 16) 12} {s : State} {trim tare : Nat}

theorem scanWeight_no_cell (hcell : (scanView raw s).cell = none) : scanWeight (scanView raw s) s = none := by
  unfold scanWeight formWeight
  rw [hcell]
  split
  · next h => cases h
  · rfl

theorem scanWeight_no_figures (hfig : weighFigures s.weigh s.op.slot s.time = none) : scanWeight (scanView raw s) s = none := by
  unfold scanWeight formWeight
  rw [show weighFigures s.weigh s.op.slot (scanView raw s).scan.time = none from hfig]

/-- A cell supplied means a referenced scan and a VALID table, so a weight is formed (R81, R82). -/
theorem scanWeight_some (hfig : weighFigures s.weigh s.op.slot s.time = some (trim, tare)) {k : Crane} (hk : s.pose.crane = some k)
    {cell : Cell} {row : Fin 16} {col : Fin 8} (hcell : (scanView raw s).cell = some (cell, row, col)) :
    scanWeight (scanView raw s) s = some (weightOf trim tare cell.k cell.e
      (netForce k (scanView raw s).scan.scaled[0] (scanView raw s).scan.scaled[1])) := by
  obtain ⟨hvalid, hstate, _⟩ := (supplied_eq_some_iff s.table (completedPose raw s) cell row col).1 hcell
  have hreferenced : (scanView raw s).scan.referenced = true := by
    obtain ⟨_, _, h⟩ := (Pose.valid_iff _).1 hvalid
    have hnot : (!(scanView raw s).scan.referenced) = false := h
    simpa using hnot
  have htable : (scanView raw s).tableValid = true := beq_iff_eq.2 hstate
  unfold scanWeight formWeight
  rw [show weighFigures s.weigh s.op.slot (scanView raw s).scan.time = _ from hfig, hk, hcell]
  dsimp only
  rw [hreferenced, htable]
  rfl

end

/-- The tracker's step leaves the latest weight (R84). -/
theorem track_latest (v : ScanView) (s : State) : (track v s).1.weigh.latest = s.weigh.latest := by
  have h := track_transition v s
  generalize (track v s).1.tracker.state = k at h
  generalize (track v s).1.weigh = w at h
  cases h <;> rfl

theorem completeScan_latest (run : ScanRun) (raw : Vector (BitVec 16) 12) (s : State) : (completeScan run raw s).weigh.latest =
    if s.weigh.context.held != (completeScan run raw s).weigh.context.held && freeBool s.free 1000 then s.weigh.latest
    else latestAfter s.weigh s.time (scanWeight (scanView raw s) s) := by
  have hlatest : (track (scanView raw s) (beforeTrack run raw s)).1.weigh.latest
      = latestAfter s.weigh s.time (scanWeight (scanView raw s) s) := by
    rw [track_latest]
    rfl
  rw [completeScan_context, completeScan_weigh]
  show (settleLatest s _).latest = _
  unfold settleLatest
  split
  · rfl
  · exact hlatest

theorem held_eq_false_iff (c : Context) : c.held = false ↔ c = .absent := by cases c <;> simp [Context.held]

/-- Settles O27. -/
theorem scanCompletionFormsTheWeight : Obligations.ScanCompletionFormsTheWeight := by
  intro raw run s hrun hdue
  refine ⟨completeScan run raw s, completedPose raw s, exec_scanCompletion hrun hdue, ?pose, ?_⟩
  case pose => rw [completeScan_pose]
  intro v weight formed
  have hlatest := completeScan_latest run raw s
  have hformed {trim tare : Nat} (hfig : weighFigures s.weigh s.op.slot s.time = some (trim, tare)) : formed trim tare := by
    refine ⟨fun hcell => scanWeight_no_cell hcell, fun k cell row col hk hcell => ?_⟩
    intro force exact
    exact ⟨_, scanWeight_some hfig hk hcell, weightOf_bounds trim tare cell.k cell.e force⟩
  refine ⟨?scan, fun cell row col => supplied_eq_some_iff s.table (completedPose raw s) cell row col,
    fun c hc hother => hformed ?lift, fun c hc hlatch => scanWeight_no_figures ?grip, fun c hc => hformed ?calibration,
    fun count sum skipped hc hzero => hformed ?zero, fun hc hno => scanWeight_no_figures ?idle, fun hw => ?keeps,
    fun w hw => ⟨?taken, fun hsame => ?settled⟩⟩
  case scan => rw [completeScan_scanner_eq, startWaiting_latest]; rfl
  case lift => simp only [weighFigures, hc, if_neg hother]
  case grip => simp only [weighFigures, hc, if_pos hlatch]
  case calibration => simp only [weighFigures, hc]
  case zero => simp only [weighFigures, hc, hzero]
  case idle =>
    unfold weighFigures
    rw [hc]
    split
    · next h => cases h
    · next h => cases h
    · next count sum skipped _ h => exact absurd h (hno count sum skipped)
    · rfl
  case keeps =>
    rw [hlatest, show scanWeight (scanView raw s) s = none from hw]
    exact ite_self _
  case taken =>
    rw [hlatest, show scanWeight (scanView raw s) s = some w from hw]
    split
    · exact .inr rfl
    · exact .inl rfl
  case settled =>
    have hheld : s.weigh.context.held = (completeScan run raw s).weigh.context.held := by
      rw [← held_eq_false_iff, ← held_eq_false_iff] at hsame
      exact Bool.eq_iff_iff.2 (by simpa using not_congr hsame)
    rw [hlatest, hheld, bne_self_eq_false, Bool.false_and, if_neg Bool.false_ne_true,
      show scanWeight (scanView raw s) s = some w from hw]
    rfl

end Sys2Proof.Machine
end

section
/-! The window result (R95, R96) and the overload (R101, R102). -/
namespace Sys2Proof.Machine

/-! ### The window result (R95, R96) -/

theorem meanWeight_bounds {l : List Int} (h : l ≠ []) : ∃ mean : Int, meanWeight l = (max 0 mean).toNat
    ∧ 2 * l.length * mean - l.length ≤ 2 * l.sum ∧ 2 * l.sum < 2 * l.length * mean + l.length := by
  have hpos : 0 < (l.length : Int) := by exact_mod_cast List.length_pos_of_ne_nil h
  refine ⟨roundHalfUp l.sum l.length, ?_, roundHalfUp_bounds l.sum l.length hpos⟩
  rw [meanWeight, sumInt_eq_sum]
  omega

/-- The spread is the greatest sample less the least. -/
theorem spreadGiven_eq {l : List Int} {low high : Int} (hlow : low ∈ l) (hhigh : high ∈ l) (hall : ∀ x ∈ l, low ≤ x ∧ x ≤ high) :
    spreadGiven l = min (high - low).toNat 65535 := by
  cases l with
  | nil => cases hlow
  | cons x xs =>
    have hmax : (x :: xs).max? = some high := List.max?_eq_some_iff.2 ⟨hhigh, fun y hy => (hall y hy).2⟩
    have hmin : (x :: xs).min? = some low := List.min?_eq_some_iff.2 ⟨hlow, fun y hy => (hall y hy).1⟩
    rw [List.max?_cons', Option.some.injEq] at hmax
    rw [List.min?_cons', Option.some.injEq] at hmin
    rw [spreadGiven, spreadOf, hmax, hmin]

/-- The result has the status with which the window closes. -/
theorem windowResult_status (still : Nat) (status : CloseStatus) (samples : List Int) : (windowResult still status samples).status = status := by
  cases status <;> rfl

theorem Weigh.result_of_lift {u : Weigh} {c : LiftContext} (hc : u.context = .lift c) :
    u.result = windowResult c.still u.window.closeStatus u.window.samples := by
  unfold Weigh.result
  rw [hc]
  rfl

theorem closeStatus_of_unopened {w : Window} (h : w.state = .unopened) : w.closeStatus = if w.missed then .noTable else .never := by
  unfold Window.closeStatus
  rw [h]

theorem closeStatus_of_running {w : Window} (h : w.state = .opened ∨ w.state = .suspended ∨ w.state = .frozen) : w.closeStatus = .short := by
  unfold Window.closeStatus
  rcases h with h | h | h <;> rw [h]

theorem closeStatus_of_closed {w : Window} {held : CloseStatus} (h : w.state = .closed held) : w.closeStatus = held := by
  unfold Window.closeStatus
  rw [h]

/-- Settles O29. -/
theorem windowResultAtFinalization : Obligations.WindowResultAtFinalization := by
  refine ⟨fun l hl => meanWeight_bounds hl, rfl, fun l low high hlow hhigh hall => spreadGiven_eq hlow hhigh hall, fun u c hc => ?_⟩
  intro w r last
  have hr : r = windowResult c.still w.closeStatus w.samples := Weigh.result_of_lift hc
  have hstatus : r.status = w.closeStatus := hr ▸ windowResult_status _ _ _
  have hof {status : CloseStatus} (h : r.status = status) : r = windowResult c.still status w.samples := by
    rw [hr, ← hstatus, h]
  refine ⟨fun h => hstatus.trans (closeStatus_of_running h), fun h hmissed => ?noTable, fun h hmissed => ?never,
    fun held h => hstatus.trans (closeStatus_of_closed h), fun h => ?empty, fun hn hv => ?count, fun h => ?still, fun h => ?full,
    fun h => ?mean, fun h => ?fault⟩
  case noTable => rw [hstatus, closeStatus_of_unopened h, if_pos hmissed]
  case never => rw [hstatus, closeStatus_of_unopened h, hmissed]; rfl
  case empty => rcases h with h | h <;> rw [hof h] <;> exact ⟨rfl, rfl, rfl⟩
  case count =>
    rw [hstatus] at hn hv
    rw [hr]
    cases hs : w.closeStatus with
    | noTable => exact absurd hs hn
    | never => exact absurd hs hv
    | _ => rfl
  case still => rw [hof h]; exact ⟨rfl, rfl⟩
  case full => rw [hof h]; exact ⟨rfl, rfl⟩
  case mean => rcases h with h | h <;> rw [hof h] <;> exact ⟨rfl, rfl⟩
  case fault => rw [hof h]; exact ⟨rfl, rfl⟩

/-! ### The overload (R101, R102) -/

/-- Under a context the tracker's report keeps context and overload, or a releasing scan ends both. -/
theorem Transition.overload {v : ScanView} {s : State} {k : TrackerState} {w : Weigh} (h : Transition v s k w)
    (hheld : s.weigh.context.held = true) : (w.context ≠ .absent ∧ w.overload = s.weigh.overload)
      ∨ (w.context = .absent ∧ w.overload = false ∧ v.scan.releasing s.weigh.params = true) := by
  have hphase (p : Phase) (x : Option Time) : s.weigh.context.setPhase p x ≠ .absent := by
    cases hc : s.weigh.context with
    | absent => rw [hc] at hheld; cases hheld
    | lift c => exact nofun
    | calibration c => exact nofun
  cases h with
  | stays => exact .inl ⟨fun hc => (by rw [hc] at hheld; cases hheld), rfl⟩
  | grips => exact .inl ⟨nofun, rfl⟩
  | regrips => exact .inl ⟨hphase _ _, rfl⟩
  | finalizes _ _ hr => exact .inr ⟨rfl, rfl, hr⟩
  | releases => exact .inl ⟨hphase _ _, rfl⟩
  | leavesCalibration _ hr => exact .inr ⟨rfl, rfl, hr⟩

theorem completeScan_overload_cases (run : ScanRun) (raw : Vector (BitVec 16) 12) {s : State} (hheld : s.weigh.context.held = true) :
    ((completeScan run raw s).weigh.context ≠ .absent ∧ (completeScan run raw s).weigh.overload = scanOverload raw s)
      ∨ ((completeScan run raw s).weigh.context = .absent ∧ (completeScan run raw s).weigh.overload = false
        ∧ (scanView raw s).scan.releasing s.weigh.params = true) := by
  rw [completeScan_context, completeScan_overload]
  exact (track_transition (scanView raw s) (beforeTrack run raw s)).overload hheld

theorem scanOverload_no_weight {raw : Vector (BitVec 16) 12} {s : State} (hw : scanWeight (scanView raw s) s = none) :
    scanOverload raw s = s.weigh.overload := by
  unfold scanOverload evaluateOverload
  rw [hw]

theorem scanOverload_weight {raw : Vector (BitVec 16) 12} {s : State} (hheld : s.weigh.context.held = true) {w : Int}
    (hw : scanWeight (scanView raw s) s = some w) {cell : Cell} {row : Fin 16} {col : Fin 8}
    (hcell : (scanView raw s).cell = some (cell, row, col)) :
    scanOverload raw s = overloadAfter s.weigh.overload ((scanView raw s).scan.releasing s.weigh.params) w cell.rated := by
  unfold scanOverload evaluateOverload
  rw [hw, hcell]
  exact if_pos hheld

theorem overloadAfter_standing (releasing : Bool) (w : Int) (rated : Nat) :
    overloadAfter true releasing w rated = true ↔ (rated : Int) * 95 / 100 < w := by
  rw [overloadAfter, if_pos rfl, Bool.not_eq_true', decide_eq_false_iff_not, not_le, clearLevel]
  push_cast
  rfl

theorem overloadAfter_asserted (releasing : Bool) (w : Int) (rated : Nat) :
    overloadAfter false releasing w rated = true ↔ (rated : Int) < w ∧ releasing = false := by
  simp [overloadAfter]

theorem filter_scan_overload (run : ScanRun) (raw : Vector (BitVec 16) 12) (s : State) :
    (afterScan run raw s).2.flatten.filter (fun d => d.kind = .overload)
      = overloadEvents s.weigh.overload (scanOverload raw s) (scanView raw s) (scanWeight (scanView raw s) s) := by
  have hk : Kind.overload ∉ liftKinds := by decide
  have hf := filter_scanEvents run raw s .overload
  dsimp only at hf
  rw [filter_track_of_not_mem hk] at hf
  simpa [scanOverload, Weigh.takeScan] using hf

/-- No OVERLOAD without an assertion. -/
theorem overloadEvents_eq_nil {before after : Bool} (h : before = true ∨ after = false) (v : ScanView) (w : Option Int) :
    overloadEvents before after v w = [] := by
  have hno : ¬(!before && after) = true := by rcases h with rfl | rfl <;> simp
  unfold overloadEvents
  split
  · exact if_neg hno
  · rfl

theorem overloadEvents_asserted {v : ScanView} {w : Int} {cell : Cell} {row : Fin 16} {col : Fin 8} (hcell : v.cell = some (cell, row, col)) :
    overloadEvents false true v (some w) = [.overload w cell.rated row col v.scan.time] := by
  unfold overloadEvents
  rw [hcell]
  rfl

/-- Settles O30. -/
theorem overloadHysteresis : Obligations.OverloadHysteresis := by
  intro raw run s hrun hdue hheld
  have hreports := completeScan_reports run raw s .overload
  rw [filter_scan_overload] at hreports
  have hcases := completeScan_overload_cases run raw hheld
  have hkept : (completeScan run raw s).weigh.context ≠ .absent → (completeScan run raw s).weigh.overload = scanOverload raw s := fun hc => by
    obtain ⟨_, h⟩ | ⟨h, _⟩ := hcases
    · exact h
    · exact absurd h hc
  refine ⟨completeScan run raw s, exec_scanCompletion hrun hdue, ?_⟩
  intro v
  refine ⟨?row, fun hc => ?ended, fun hc hw => (hkept hc).trans (scanOverload_no_weight hw), fun w cell row col hc hw hcell => ?weighed,
    fun hno => ?silent⟩
  case row => rw [completeScan_permit]; rfl
  case ended =>
    obtain ⟨h, _⟩ | ⟨_, h, _⟩ := hcases
    · exact absurd hc h
    · exact h
  case weighed =>
    have hafter := (hkept hc).trans (scanOverload_weight hheld hw hcell)
    refine ⟨fun hold hnew => ?_, fun hold => ?_, fun hold => ?_⟩
    · rw [hold, (hkept hc).symm.trans hnew, hw, overloadEvents_asserted hcell] at hreports
      exact hreports
    · rw [hafter, hold]
      exact overloadAfter_standing _ _ _
    · rw [hafter, hold]
      exact overloadAfter_asserted _ _ _
  case silent =>
    have hquiet : s.weigh.overload = true ∨ scanOverload raw s = false := by
      rcases hno with hold | hnew
      · exact .inl hold
      · obtain ⟨_, h⟩ | ⟨_, _, hr⟩ := hcases
        · exact .inr (h.symm.trans hnew)
        · cases hold : s.weigh.overload with
          | true => exact .inl rfl
          | false => exact .inr (scanOverload_of_releasing raw s hr hold)
    rw [overloadEvents_eq_nil hquiet] at hreports
    exact hreports

end Sys2Proof.Machine
end

section
/-! The operations at a scan completion (R17, R139, R141, R145 to R151). -/
namespace Sys2Proof.Machine

/-! ### What a step of the operation unit leaves -/

section
variable {run : ScanRun} {raw : Vector (BitVec 16) 12} {s : State}

theorem filter_scan_opDone (run : ScanRun) (raw : Vector (BitVec 16) 12) (s : State) :
    (afterScan run raw s).2.flatten.filter (fun d => d.kind = .opDone) = (operationStep run raw s).events := by
  have hk : Kind.opDone ∉ liftKinds := by decide
  have hf := filter_scanEvents run raw s .opDone
  dsimp only at hf
  rw [filter_track_of_not_mem hk] at hf
  simpa [operationStep] using hf

theorem completeScan_op_eq (run : ScanRun) (raw : Vector (BitVec 16) 12) (s : State) :
    (completeScan run raw s).op = (operationStep run raw s).unit s.op.last := completeScan_op run raw s

/-- An operation that ends leaves the slot IDLE with its result, and raises its OP_DONE (R141). -/
theorem completion_ends {d : OpDoneDetail} (h : (operationStep run raw s).done = some d) :
    (completeScan run raw s).op = .ended d ∧ s.occurred (completeScan run raw s) (.opDone d) := by
  refine ⟨?_, (completeScan_reports run raw s).occurred (d := .opDone d) ((filter_scan_opDone run raw s).trans ?_)⟩
  · rw [completeScan_op_eq, OpStep.unit, h]
  · rw [OpStep.events, h]

/-- An operation that ends with nothing to write. -/
theorem completion_fails {d : OpDoneDetail} (h : operationStep run raw s = .ends d) :
    ((completeScan run raw s).op = .ended d ∧ s.occurred (completeScan run raw s) (.opDone d))
      ∧ (completeScan run raw s).weigh.params = s.weigh.params := by
  refine ⟨completion_ends (by rw [h]; rfl), ?_⟩
  rw [completeScan_params, h]
  rfl

/-- An operation that runs on raises nothing and writes nothing. -/
theorem completion_runs {slot : Option Op} (h : operationStep run raw s = .running slot) :
    ((completeScan run raw s).op = { s.op with slot := slot } ∧ s.silent (completeScan run raw s) .opDone)
      ∧ (completeScan run raw s).weigh.params = s.weigh.params := by
  refine ⟨⟨?_, ?_⟩, ?_⟩
  · rw [completeScan_op_eq, h]
    rfl
  · have hreports := completeScan_reports run raw s .opDone
    rw [filter_scan_opDone, h] at hreports
    exact hreports
  · rw [completeScan_params, h]
    rfl

/-! ### The steps of SCAN_ONCE and ZERO (R17, R145 to R147) -/

theorem operationStep_idle (h : s.op.slot = none) : operationStep run raw s = .running none := by
  rw [operationStep, h]
  rfl

theorem operationStep_once (h : s.op.slot = some .scanOnce) : operationStep run raw s = onceAtScan run.isOnce s.time := by
  rw [operationStep, h]
  rfl

theorem operationStep_zero {count skipped : Nat} {sum : Int} (h : s.op.slot = some (.zero count sum skipped)) :
    operationStep run raw s =
      zeroAtScan count sum skipped s.weigh.params (scanView raw s).scan (scanWeight (scanView raw s) s) := by
  rw [operationStep, h]
  rfl

theorem operationStep_span {mass : Nat} (h : s.op.slot = some (.span mass)) : operationStep run raw s =
    spanAtScan mass s.weigh.params (scanView raw s).scan (windowAfter s.weigh (scanView raw s) (scanWeight (scanView raw s) s)) := by
  rw [operationStep, h]
  rfl

end

section
variable {count skipped : Nat} {sum : Int} {p : WeighParams} {scan : Scan}

theorem zeroAtScan_gripping (hg : scan.gripping p = true) (weight : Option Int) : zeroAtScan count sum skipped p scan weight =
    .ends ⟨.zero, .failed .gripped, none, count, skipped, none, none, scan.time⟩ := if_pos hg

/-- A weight of a scan with GRIP_P in its band is counted (R146). -/
theorem zeroAtScan_counts (hg : scan.gripping p = false) (hin : scan.gripIn = true) (w : Int) :
    zeroAtScan count sum skipped p scan (some w) = if 32 ≤ count + 1 then zeroComplete (sum + w) skipped scan.time
      else .running (some (.zero (count + 1) (sum + w) skipped)) := by
  unfold zeroAtScan
  rw [hg, hin]
  rfl

/-- Any other scan is skipped (R146). -/
theorem zeroAtScan_skips (hg : scan.gripping p = false) {weight : Option Int} (h : scan.gripIn = false ∨ weight = none) :
    zeroAtScan count sum skipped p scan weight =
      if 8 ≤ skipped + 1 then .ends ⟨.zero, .failed .unreferenced, none, count, skipped + 1, none, none, scan.time⟩
      else .running (some (.zero count sum (skipped + 1))) := by
  unfold zeroAtScan
  rw [hg]
  rcases h with h | h
  · rw [h]
    cases weight <;> rfl
  · rw [h]
    rfl

theorem zeroComplete_done {now : Time} (hlow : 0 ≤ roundHalfUp sum 32) (hhigh : roundHalfUp sum 32 ≤ 2000) : zeroComplete sum skipped now =
    { OpStep.ends ⟨.zero, .done, some (roundHalfUp sum 32), 32, skipped, some (roundHalfUp sum 32), none, now⟩ with
      tare := some (roundHalfUp sum 32).toNat } := if_pos ⟨hlow, hhigh⟩

theorem zeroComplete_range {now : Time} (h : roundHalfUp sum 32 < 0 ∨ 2000 < roundHalfUp sum 32) : zeroComplete sum skipped now =
    .ends ⟨.zero, .failed .range, some (roundHalfUp sum 32), 32, skipped, some (roundHalfUp sum 32), none, now⟩ :=
  if_neg (by omega)

end

/-! ### The steps of SPAN (R149 to R151) -/

section
variable {mass : Nat} {p : WeighParams} {scan : Scan} {window : Window}

theorem spanAtScan_releasing (hr : scan.releasing p = true) : spanAtScan mass p scan window =
    .ends ⟨.span, .failed .released, none, window.samples.length, 0, none, some mass, scan.time⟩ := if_pos hr

theorem spanAtScan_fault (hr : scan.releasing p = false) (hw : window.state = .closed .fault) : spanAtScan mass p scan window =
    .ends ⟨.span, .failed .band, none, window.samples.length, 0, none, some mass, scan.time⟩ := by
  unfold spanAtScan
  rw [hr, hw]
  rfl

theorem spanAtScan_full (hr : scan.releasing p = false) (hw : window.state = .closed .full) :
    spanAtScan mass p scan window = spanComplete mass window.samples scan.time := by
  unfold spanAtScan
  rw [hr, hw]
  rfl

theorem spanAtScan_open (hr : scan.releasing p = false) (hw : window.state = .opened) :
    spanAtScan mass p scan window = .running (some (.span mass)) := by
  unfold spanAtScan
  rw [hr, hw]
  rfl

end

section
variable {mass : Nat} {samples : List Int} {now : Time}

theorem spanComplete_done (hsum : 0 < samples.sum) (hlow : 800 ≤ roundHalfUp (1000 * (mass : Int) * 64) samples.sum)
    (hhigh : roundHalfUp (1000 * (mass : Int) * 64) samples.sum ≤ 1250) : spanComplete mass samples now =
    { OpStep.ends ⟨.span, .done, some (roundHalfUp (1000 * (mass : Int) * 64) samples.sum), samples.length, 0,
        some (roundHalfUp samples.sum 64), some mass, now⟩ with trim := some (roundHalfUp (1000 * (mass : Int) * 64) samples.sum).toNat } := by
  unfold spanComplete
  rw [sumInt_eq_sum]
  dsimp only
  rw [if_neg (not_le.2 hsum), if_pos ⟨hlow, hhigh⟩]

theorem spanComplete_nonpositive (hsum : samples.sum ≤ 0) : spanComplete mass samples now =
    .ends ⟨.span, .failed .range, none, samples.length, 0, some (roundHalfUp samples.sum 64), some mass, now⟩ := by
  unfold spanComplete
  rw [sumInt_eq_sum]
  exact if_pos hsum

theorem spanComplete_range (hsum : 0 < samples.sum) (h : roundHalfUp (1000 * (mass : Int) * 64) samples.sum < 800
    ∨ 1250 < roundHalfUp (1000 * (mass : Int) * 64) samples.sum) : spanComplete mass samples now =
    .ends ⟨.span, .failed .range, some (roundHalfUp (1000 * (mass : Int) * 64) samples.sum), samples.length, 0,
      some (roundHalfUp samples.sum 64), some mass, now⟩ := by
  unfold spanComplete
  rw [sumInt_eq_sum]
  dsimp only
  rw [if_neg (not_le.2 hsum), if_neg (by omega)]

end

/-- The window of SPAN after a scan that does not release (R91, R93, R100). -/
theorem windowAfter_span {w : Weigh} {v : ScanView} {c : CalContext} (hc : w.context = .calibration c) (hbudget : c.budget = 64)
    (hopen : w.window.state = .opened) (hr : v.scan.releasing w.params = false) (weight : Option Int) :
    (liftBandFails v.scan = true → windowAfter w v weight = { w.window with state := .closed .fault })
    ∧ (liftBandFails v.scan = false → acceptedSample w c.motion v weight = none → windowAfter w v weight = w.window)
    ∧ ∀ x, liftBandFails v.scan = false → acceptedSample w c.motion v weight = some x →
        let list := w.window.samples ++ [x]
        (list.length < 64 → windowAfter w v weight = { w.window with samples := list })
        ∧ (64 ≤ list.length → windowAfter w v weight = { w.window with samples := list, state := .closed .full }) := by
  obtain ⟨_, hfault, hnone, hsample⟩ := Window.laterSteps_stepsTo (v := v) (sample := acceptedSample w c.motion v weight) Iff.rfl
    (fun _ => Iff.rfl) 64 none w.window
  rw [windowAfter_calibration hc hr, hbudget]
  have hno : ∀ {b : Bool}, b = false → ¬b = true := fun h => by rw [h]; exact Bool.false_ne_true
  refine ⟨fun hband => hfault hopen hband, fun hband hn => hnone hopen (hno hband) (by rw [hn]; exact nofun), fun x hband hx => ?_⟩
  obtain ⟨_, hfull, hroom⟩ := hsample x hopen (hno hband) hx
  exact ⟨fun hlt => (hroom (fun ⟨_, _, h, _⟩ => nomatch h) hlt).trans (by rw [← hopen]), fun hle => hfull (fun ⟨_, _, h, _⟩ => nomatch h) hle⟩

/-- Settles O41. -/
theorem operationsEndAtAScan : Obligations.OperationsEndAtAScan := by
  intro raw run s hrun hdue
  refine ⟨completeScan run raw s, exec_scanCompletion hrun hdue, ?_⟩
  intro v p ends runsOn
  refine ⟨fun hs => (completion_runs (operationStep_idle hs)).1, fun hs hown => ?own, fun hs hother => ?other,
    fun count sum skipped hs => ?zero, fun mass c hs hc hbudget hopen => ?span⟩
  case own =>
    have honce : run.isOnce = true := Option.isNone_iff_eq_none.2 hown
    refine completion_ends (d := ⟨.scanOnce, .done, some s.time.toNat, 0, 0, none, none, s.time⟩) ?_
    rw [operationStep_once hs, honce]
    rfl
  case other =>
    have honce : run.isOnce = false := Bool.eq_false_iff.2 (mt Option.isNone_iff_eq_none.1 hother)
    refine (completion_runs ?_).1
    rw [operationStep_once hs, honce]
    rfl
  case zero =>
    have hstep := operationStep_zero (run := run) (raw := raw) hs
    refine ⟨fun hg => completion_fails (hstep.trans (zeroAtScan_gripping hg _)), fun w hg hin hw hcount => ?_,
      fun w hg hin hw hcount => ?_, fun hg hskip hroom => ?_, fun hg hskip hfull => ?_⟩
    · rw [show scanWeight (scanView raw s) s = some w from hw, zeroAtScan_counts hg hin, if_neg (by omega)] at hstep
      exact completion_runs hstep
    · rw [show scanWeight (scanView raw s) s = some w from hw, zeroAtScan_counts hg hin, if_pos (by omega)] at hstep
      refine ⟨fun hlow hhigh => ?_, fun hrange => completion_fails (hstep.trans (zeroComplete_range hrange))⟩
      rw [zeroComplete_done hlow hhigh] at hstep
      refine ⟨completion_ends (by rw [hstep]; rfl), ?_⟩
      rw [completeScan_params, hstep]
      rfl
    · rw [zeroAtScan_skips hg hskip, if_neg (by omega)] at hstep
      exact completion_runs hstep
    · rw [zeroAtScan_skips hg hskip, if_pos (by omega)] at hstep
      exact completion_fails hstep
  case span =>
    intro taken
    have hstep := operationStep_span (run := run) (raw := raw) hs
    refine ⟨fun hr => ?released, fun hr hband => ?fault, fun hr hband => ⟨fun hn => ?none, fun w hw => ⟨fun hroom => ?room, fun hfull => ?full⟩⟩⟩
    case released =>
      rw [windowAfter_of_releasing hr, spanAtScan_releasing hr] at hstep
      exact completion_fails hstep
    all_goals
      obtain ⟨hwfault, hwnone, hwsample⟩ := windowAfter_span hc hbudget hopen hr (scanWeight v s)
    case fault =>
      rw [hwfault hband, spanAtScan_fault hr rfl] at hstep
      exact completion_fails hstep
    case none =>
      rw [hwnone hband hn, spanAtScan_open hr hopen] at hstep
      exact completion_runs hstep
    all_goals
      have hlength : (s.weigh.window.samples ++ [w]).length = s.weigh.window.samples.length + 1 := List.length_append
      obtain ⟨hwopen, hwfull⟩ := hwsample w hband hw
    case room =>
      rw [hwopen (by rw [hlength]; exact Nat.succ_lt_succ hroom),
        spanAtScan_open (window := { s.weigh.window with samples := s.weigh.window.samples ++ [w] }) hr hopen] at hstep
      exact completion_runs hstep
    case full =>
      rw [hwfull (by rw [hlength]; exact Nat.succ_le_succ hfull), spanAtScan_full hr rfl] at hstep
      intro total mean trim full
      refine ⟨fun hsum hlow hhigh => ?_, fun hsum => ?_, fun hsum hrange => ?_⟩
      · rw [spanComplete_done hsum hlow hhigh, hlength] at hstep
        refine ⟨completion_ends (by rw [hstep]; rfl), ?_⟩
        rw [completeScan_params, hstep]
        rfl
      · rw [spanComplete_nonpositive hsum, hlength] at hstep
        exact completion_fails hstep
      · rw [spanComplete_range hsum hrange, hlength] at hstep
        exact completion_fails hstep

end Sys2Proof.Machine
end

section
/-! The receiver (R182 to R184): what a hunting receiver makes of the bytes that arrive. -/
namespace Sys2Proof.Machine

/-! ### The hunt, byte by byte (R182) -/

section
variable (s : State)

theorem hunt_drops {b : Byte} (hb : b ≠ syncByte) (rest : List Byte) :
    hunt (b :: rest).length (b :: rest) s = hunt rest.length rest s := by
  rw [List.length_cons, hunt.eq_def]
  exact if_pos hb

variable (len : Byte) (tail : List Byte)

/-- After SYNC and LEN: a LEN out of range is a fault, and so is a bad CHECK; a frame that is not whole is held. -/
theorem hunt_sync : hunt (syncByte :: len :: tail).length (syncByte :: len :: tail) s =
    if len.toNat < 2 || 250 < len.toNat then hunt (len :: tail).length (len :: tail) (s.raise (.linkFault .check s.time))
    else if (len :: tail).length < len.toNat + 3 then (s, some (len :: tail))
    else if checkMatches len.toNat (len :: tail) then
      hunt (len :: tail).length ((len :: tail).drop (len.toNat + 3)) (acceptFrame len.toNat (len :: tail) s)
    else hunt (len :: tail).length (len :: tail) (s.raise (.linkFault .check s.time)) := by
  rw [List.length_cons (a := syncByte), hunt, if_neg (not_not.2 rfl)]

theorem lenInRange_iff (n : Nat) : (n < 2 || 250 < n) = !lenInRange n := by
  by_cases h1 : n < 2
  · simp [lenInRange, h1, Nat.not_le.2 h1]
  · by_cases h2 : 250 < n
    · simp [lenInRange, h2, Nat.not_le.2 h2]
    · simp [lenInRange, h1, h2, Nat.le_of_not_lt h1, Nat.le_of_not_lt h2]

theorem hunt_badLen (hlen : lenInRange len.toNat = false) : hunt (syncByte :: len :: tail).length (syncByte :: len :: tail) s =
    hunt (len :: tail).length (len :: tail) (s.raise (.linkFault .check s.time)) := by
  rw [hunt_sync, lenInRange_iff, hlen]
  rfl

variable (hlen : lenInRange len.toNat = true)
include hlen

theorem hunt_incomplete (h : (len :: tail).length < len.toNat + 3) :
    hunt (syncByte :: len :: tail).length (syncByte :: len :: tail) s = (s, some (len :: tail)) := by
  rw [hunt_sync, lenInRange_iff, hlen]
  exact if_pos h

theorem hunt_badCheck (h : len.toNat + 3 ≤ (len :: tail).length) (hcheck : checkMatches len.toNat (len :: tail) = false) :
    hunt (syncByte :: len :: tail).length (syncByte :: len :: tail) s =
      hunt (len :: tail).length (len :: tail) (s.raise (.linkFault .check s.time)) := by
  rw [hunt_sync, lenInRange_iff, hlen, hcheck]
  exact if_neg (not_lt.2 h)

/-- A whole good frame and nothing behind it. -/
theorem hunt_good (h : (len :: tail).length = len.toNat + 3) (hcheck : checkMatches len.toNat (len :: tail) = true) :
    hunt (syncByte :: len :: tail).length (syncByte :: len :: tail) s = (acceptFrame len.toNat (len :: tail) s, none) := by
  rw [hunt_sync, lenInRange_iff, hlen, hcheck, ← h, List.drop_length]
  exact if_neg (lt_irrefl _)

end

/-! ### The bytes of a frame (R181) -/

section
variable {len : Byte} {inner check : List Byte} (hinner : inner.length = len.toNat) (more : List Byte)
include hinner

theorem take_frame : (len :: (inner ++ check ++ more)).take (len.toNat + 1) = len :: inner := by
  rw [List.take_succ_cons, List.append_assoc, ← hinner, List.take_left']
  rfl

theorem drop_frame : (len :: (inner ++ check ++ more)).drop (len.toNat + 1) = check ++ more := by
  rw [List.drop_succ_cons, List.append_assoc, ← hinner, List.drop_left']
  rfl

/-- The CHECK of a frame is compared with that of LEN and the LEN bytes. -/
theorem checkMatches_frame (hcheck : check.length = 2) :
    checkMatches len.toNat (len :: (inner ++ check ++ more)) = decide (check = split16 (crc16 (len :: inner))) := by
  unfold checkMatches
  rw [take_frame hinner, drop_frame hinner, ← hcheck, List.take_left' rfl, Bool.eq_iff_iff, beq_iff_eq, decide_eq_true_iff, eq_comm]

theorem take_inner : ((len :: (inner ++ check ++ more)).drop 1).take len.toNat = inner := by
  rw [List.drop_succ_cons, List.drop_zero, List.append_assoc, ← hinner, List.take_left' rfl]

/-- A frame of KIND 0x51 with tag and code is a request (R184). -/
theorem requestIn_request {tag code : Byte} {values : List Byte} (h : inner = kindRequest :: tag :: code :: values) :
    requestIn len.toNat (len :: (inner ++ check ++ more)) = some ⟨tag, code, values⟩ := by
  unfold requestIn
  rw [take_inner hinner, h]
  exact if_pos rfl

/-- A frame of another KIND, or without a code, is none (R184). -/
theorem requestIn_none (h : inner.head? ≠ some kindRequest ∨ len.toNat = 2) :
    requestIn len.toNat (len :: (inner ++ check ++ more)) = none := by
  unfold requestIn
  rw [take_inner hinner]
  split
  · next kind tag code values =>
    refine if_neg fun he => ?_
    rcases h with h | h
    · exact h (congrArg some he)
    · simp only [List.length_cons] at hinner
      omega
  · rfl

end

/-! ### A hunting receiver -/

/-- The state after the hunt, with the bytes held. -/
def holding (now : Time) (r : State × Option (List Byte)) : State :=
  { r.1 with link := { r.1.link with rx := r.2.map fun b => ⟨b, now⟩ } }

theorem hunting_of_none {s : State} (h : s.link.rx = none) : s.hunting = s := by
  unfold State.hunting
  rw [← h]

section
variable {s : State} (h : s.link.rx = none)
include h

theorem holding_none (now : Time) : holding now (s, none) = s := hunting_of_none h

/-- With no bytes held the hunt begins at the first byte that arrives. -/
theorem receive_hunting (bytes : List Byte) : receive bytes s = holding s.time (hunt bytes.length bytes s) := by
  by_cases hb : bytes = []
  · subst hb
    exact (holding_none h _).symm
  · rw [receive_eq hb, h, hunting_of_none h]
    rfl

theorem receive_drops {b : Byte} (hb : b ≠ syncByte) (more : List Byte) : receive (b :: more) s = receive more s := by
  rw [receive_hunting h, receive_hunting h, hunt_drops s hb]

theorem receive_noSync (bytes : List Byte) (hno : syncByte ∉ bytes) : receive bytes s = s := by
  induction bytes with
  | nil => rfl
  | cons b more ih =>
    rw [List.mem_cons, not_or] at hno
    rw [receive_drops h (Ne.symm hno.1), ih hno.2]

/-- A LEN out of range: the hunt resumes at the LEN byte. -/
theorem receive_badLen {len : Byte} (hlen : lenInRange len.toNat = false) (more : List Byte) :
    receive (syncByte :: len :: more) s = receive (len :: more) (s.raise (.linkFault .check s.time)) := by
  have hraised : (s.raise (.linkFault .check s.time)).link.rx = none := h
  rw [receive_hunting h, hunt_badLen s len more hlen, receive_hunting hraised]
  rfl

/-- A bad CHECK: the hunt resumes at the byte behind the frame's SYNC. -/
theorem receive_badCheck {len : Byte} (hlen : lenInRange len.toNat = true) {inner check : List Byte} (hinner : inner.length = len.toNat)
    (hcheck : check.length = 2) (hbad : check ≠ split16 (crc16 (len :: inner))) (more : List Byte) :
    receive (syncByte :: len :: (inner ++ check ++ more)) s =
      receive (len :: (inner ++ check ++ more)) (s.raise (.linkFault .check s.time)) := by
  have hraised : (s.raise (.linkFault .check s.time)).link.rx = none := h
  have hlength : len.toNat + 3 ≤ (len :: (inner ++ check ++ more)).length := by
    simp only [List.length_cons, List.length_append, hinner, hcheck]
    omega
  have hmatch : checkMatches len.toNat (len :: (inner ++ check ++ more)) = false := by
    rw [checkMatches_frame hinner more hcheck]
    exact decide_eq_false hbad
  rw [receive_hunting h, hunt_badCheck s len _ hlen hlength hmatch, receive_hunting hraised]
  rfl

/-- A whole good frame is accepted, and no byte is held. -/
theorem receive_good {len : Byte} (hlen : lenInRange len.toNat = true) {inner : List Byte} (hinner : inner.length = len.toNat) :
    receive (syncByte :: len :: (inner ++ split16 (crc16 (len :: inner)))) s =
      acceptFrame len.toNat (len :: (inner ++ split16 (crc16 (len :: inner)))) s := by
  have hsplit : (split16 (crc16 (len :: inner))).length = 2 := rfl
  have hlength : (len :: (inner ++ split16 (crc16 (len :: inner)))).length = len.toNat + 3 := by
    simp only [List.length_cons, List.length_append, hinner, hsplit]
  have hmatch : checkMatches len.toNat (len :: (inner ++ split16 (crc16 (len :: inner)))) = true := by
    have hm := checkMatches_frame (check := split16 (crc16 (len :: inner))) hinner [] hsplit
    rw [List.append_nil] at hm
    rw [hm]
    exact decide_eq_true rfl
  have hkept := acceptFrame_receiver len.toNat (len :: (inner ++ split16 (crc16 (len :: inner)))) s
  rw [receive_hunting h, hunt_good s len _ hlen hlength hmatch]
  exact holding_none (hkept.2.trans h) _

/-- A frame that is not whole is held with the time of its last byte. -/
theorem receive_incomplete {bytes : List Byte}
    (hb : ∀ len, bytes.head? = some len → lenInRange len.toNat = true ∧ bytes.length < len.toNat + 3) :
    receive (syncByte :: bytes) s = { s with link := { s.link with rx := some ⟨bytes, s.time⟩ } } := by
  rw [receive_hunting h]
  cases bytes with
  | nil => rfl
  | cons len tail =>
    obtain ⟨hlen, hshort⟩ := hb len rfl
    rw [hunt_incomplete s len tail hlen hshort]
    rfl

end

/-! ### LEN_OUT_OF_RANGE and FRAME_TIMEOUT (R182, R183) -/

theorem syncByte_lenInRange : lenInRange syncByte.toNat = true := by decide

theorem receive_lenOutOfRange {s : State} (h : s.link.rx = none) {len : Byte} (hlen : lenInRange len.toNat = false) :
    receive [syncByte, len] s = s.raise (.linkFault .check s.time) := by
  have hraised : (s.raise (.linkFault .check s.time)).link.rx = none := h
  have hne : len ≠ syncByte := fun he => by
    rw [he, syncByte_lenInRange] at hlen
    cases hlen
  rw [receive_badLen h hlen, receive_drops hraised hne]
  rfl

theorem hunting_raise_of_none {s : State} (h : s.link.rx = none) (cause : LinkCause) :
    s.hunting.raise (.linkFault cause s.time) = s.raise (.linkFault cause s.time) := by rw [hunting_of_none h]

theorem pauseDue_iff (now : Time) (l : LinkPort) : l.pauseDue now = true ↔ ∃ p, l.rx = some p ∧ p.lastByte + 20 = now := by
  unfold LinkPort.pauseDue
  split
  · next h => exact iff_of_false Bool.false_ne_true fun ⟨_, hp, _⟩ => by cases h.symm.trans hp
  · next p h =>
    rw [beq_iff_eq]
    exact ⟨fun he => ⟨p, h, he⟩, fun ⟨q, hq, he⟩ => by
      cases h.symm.trans hq
      exact he⟩

/-- Settles O52. -/
theorem receiverFaults : Obligations.ReceiverFaults := by
  intro s fault
  have hfault (h : s.link.rx = none) (cause : LinkCause) : fault cause s = s.raise (.linkFault cause s.time) :=
    hunting_raise_of_none h cause
  refine ⟨fun len inner check h hlen hinner hcheck hbad hno => ?badCheckAlone, fun len inner h hlen hinner hkind => ?notRequest,
    fun len inner check more h hlen hinner hcheck hbad => ?badCheck, fun len more h hlen => ?badLen, fun b more h hb => ?dropped,
    fun bytes h hb => ?incomplete, fun first second t ht => ?split, fun len hlen hp => ?lenOut, fun len p hp hbytes => ?lenLater,
    fun p hp hdue => ?pause, fun hp => ?noPause, fun bytes hb => ?timeoutBytes, fun bytes t p hb ht hp => ?lastByte⟩
  case badCheckAlone =>
    have h2 := receive_badCheck h hlen hinner hcheck hbad []
    rw [List.append_nil] at h2
    have hraised : (s.raise (.linkFault .check s.time)).link.rx = none := h
    refine congrArg _ (h2.trans ((receive_noSync hraised _ hno).trans ?_))
    rw [hfault h]
  case notRequest =>
    have hnot := requestIn_none (check := split16 (crc16 (len :: inner))) hinner [] hkind
    rw [List.append_nil] at hnot
    have hgood : s.goodFrame.link.rx = none := by rw [goodFrame_link]; exact h
    refine congrArg _ ((receive_good h hlen hinner).trans ?_)
    unfold acceptFrame
    rw [hnot]
    show s.goodFrame.raise (.linkFault .kind s.goodFrame.time) = s.goodFrame.hunting.raise (.linkFault .kind s.time)
    rw [hunting_of_none hgood, goodFrame_time]
  case badCheck =>
    rw [hfault h]
    exact congrArg _ (receive_badCheck h hlen hinner hcheck hbad more)
  case badLen =>
    rw [hfault h]
    exact congrArg _ (receive_badLen h hlen more)
  case dropped => exact congrArg _ (receive_drops h hb more)
  case incomplete => exact congrArg _ (receive_incomplete h hb)
  case split =>
    cases ht
    exact congrArg _ (receive_append first second s)
  case lenOut =>
    show Host.Outcome.next (lenOutOfRange len s) = _
    unfold lenOutOfRange
    split
    · next h => rw [receive_lenOutOfRange h hlen, hfault h]
    · next p h =>
      have hempty := hp p h
      rw [hempty]
      have hheld : receive [len] s = receive [syncByte, len] s.hunting := by
        rw [receive_eq (List.cons_ne_nil _ _), h, receive_eq (List.cons_ne_nil _ _), heldBytes, hempty]
        rfl
      exact congrArg _ (hheld.trans (receive_lenOutOfRange rfl hlen))
  case lenLater =>
    show Host.Outcome.next (lenOutOfRange len s) = _
    unfold lenOutOfRange
    rw [hp]
    dsimp only
    rw [if_neg (by simpa using hbytes)]
  case pause =>
    show Host.Outcome.next (if s.link.pauseDue s.time then abandon s else s) = _
    rw [if_pos ((pauseDue_iff _ _).2 ⟨p, hp, hdue⟩), abandon, hp]
    rfl
  case noPause =>
    show Host.Outcome.next (if s.link.pauseDue s.time then abandon s else s) = _
    rw [if_neg fun h => ?_]
    obtain ⟨p, hrx, hdue⟩ := (pauseDue_iff _ _).1 h
    exact hp p hrx hdue
  case timeoutBytes =>
    show Host.Outcome.next (frameTimeout bytes s) = _
    unfold frameTimeout
    rw [if_neg (by simpa using hb)]
    rfl
  case lastByte =>
    cases ht
    rw [receive_eq hb] at hp
    obtain ⟨held, _, rfl⟩ := Option.map_eq_some_iff.1 hp
    rfl

end Sys2Proof.Machine
end

section
/-! A received request frame runs its request (R164, R182, R184, R185). -/
namespace Sys2Proof.Machine

/-! ### The request frame on the line (R181, R199) -/

/-- A well-formed request has values that one frame holds. -/
theorem values_length_le {i : Instr} {f : RequestFrame} (hf : requestOf i = some f) (hw : i.wf = true) : f.values.length ≤ 247 := by
  have hshort : ∀ code ∈ requestCodes, ∀ n, requestLength code = some n → n ≤ 247 := by decide
  rcases listed_or_unknown hf with hlisted | hunknown
  · exact hshort _ hlisted _ (requestLength_requestOf hf hw hlisted)
  · rw [hunknown] at hw
    simp only [Instr.wf, Bool.and_eq_true, decide_eq_true_eq] at hw
    exact hw.2

/-- A hunting receiver takes the bytes of a request frame as that request, after the good frame has reached supervision (R184). -/
theorem receive_request {f : RequestFrame} (hf : f.values.length ≤ 247) {s : State} (h : s.link.rx = none) :
    receive f.bytes s = offer f s.goodFrame := by
  let inner : List Byte := kindRequest :: f.tag :: f.code :: f.values
  let len : Byte := BitVec.ofNat 8 ((f.code :: f.values).length + 2)
  have hinner : inner.length = len.toNat := by
    simp only [inner, len, List.length_cons, BitVec.toNat_ofNat]
    omega
  have hlen : lenInRange len.toNat = true := by
    rw [← hinner]
    simp only [lenInRange, inner, List.length_cons, Bool.and_eq_true, decide_eq_true_eq]
    omega
  have hrequest := requestIn_request (check := split16 (crc16 (len :: inner))) hinner [] rfl
  rw [List.append_nil] at hrequest
  refine (receive_good h hlen hinner).trans ?_
  unfold acceptFrame
  rw [hrequest]

/-! ### A good frame at supervision (R164) -/

section
variable {s : State}

theorem goodFrame_of_rest (h : s.permit.sup.stage = .off ∨ s.permit.sup.stage = .stopped) :
    s.goodFrame = { s with permit := { s.permit with sup := { s.permit.sup with lastGood := some s.time } } } := by
  unfold State.goodFrame
  rcases h with h | h <;> simp only [h]

theorem goodFrame_of_normal (h : s.permit.sup.stage = .normal) : s.goodFrame = { s with permit := { s.permit with
    sup := { s.permit.sup with lastGood := some s.time, timer := some (s.time + BitVec.ofNat 32 s.permit.sup.interval) } } } := by
  unfold State.goodFrame
  simp only [h]
  rfl

theorem goodFrame_of_warned (h : s.permit.sup.stage = .warned) : s.goodFrame = s.setSupervision { s.permit.sup with
    lastGood := some s.time, stage := .normal, timer := some (s.time + BitVec.ofNat 32 s.permit.sup.interval) } := by
  unfold State.goodFrame
  simp only [h]
  rfl

end

/-- A change of supervision can report PERMIT_HOLD only (R156, R157). -/
theorem setSupervision_silent (v : Supervision) (s : State) {k : Kind} (hk : k ≠ .permitHold) : s.silent (s.setSupervision v) k := by
  let p : PermitUnit := { s.permit with sup := v, rows := { s.permit.rows with supervision := v.stage.row } }
  have hreports : s.reports (s.setSupervision v) (p.holdEvent .supervision s.time) :=
    State.raiseAll_reports { s with permit := p.evaluate } (p.holdEvent .supervision s.time)
  exact hreports.silent fun d hd h => hk (h.symm.trans (kind_of_mem_holdEvent hd))

/-- Settles O51. -/
theorem receivedFrameRunsItsRequest : Obligations.ReceivedFrameRunsItsRequest := by
  refine ⟨fun i f s hf hw h => ?_, fun s => ?_⟩
  · rw [exec_of_requestOf hf]
    exact congrArg _ (receive_request (values_length_le hf hw) h)
  · intro t seen restarted
    refine ⟨goodFrame_of_rest, goodFrame_of_normal, fun h => ?_⟩
    have ht : t = _ := goodFrame_of_warned h
    have hframe : { t with permit := s.permit, events := s.events } = s := goodFrame_frame s
    rw [ht] at hframe ⊢
    exact ⟨rfl, rfl, rfl, rfl,
      setSupervision_holdReported rfl rfl (State.reports_nil rfl rfl) (fun _ hd => absurd hd List.not_mem_nil) _,
      fun kind hkind => setSupervision_silent _ s hkind, hframe⟩

end Sys2Proof.Machine
end

section
/-! The transmit line (R133, R174, R175, R186, R188 to R190). -/
namespace Sys2Proof.Machine

/-! ### The report of a kind at its notice (R174) -/

namespace EventUnit

theorem report_frame (e : EventUnit) (k : Kind) : e.report k = { e with pending := (e.report k).pending, counts := (e.report k).counts } := rfl

theorem report_count (e : EventUnit) (k j : Kind) : (e.report k).count j = if j = k then 0 else e.count j := by
  unfold count
  show (e.counts.set k.prio 0)[j.prio] = _
  split
  · next h => subst h; exact Vector.getElem_set_self _
  · next h => exact Vector.getElem_set_ne _ _ (prio_val_ne h)

/-- The unit that settles after the report of a kind keeps the kind reported, and its details and mask. -/
theorem settle_report (e : EventUnit) (k : Kind) (sending : Bool) : ((e.report k).settle sending).count k = 0
    ∧ ((e.report k).settle sending).isPending k = false ∧ ((e.report k).settle sending).details = e.details
    ∧ ((e.report k).settle sending).mask = e.mask := by
  refine ⟨?_, ?_, settle_details sending (e.report k), settle_mask sending (e.report k)⟩
  · have hcount := report_count e k k
    rw [if_pos rfl] at hcount
    unfold count at hcount ⊢
    rw [settle_counts]
    exact hcount
  · refine Bool.eq_false_iff.2 fun h => ?_
    have hpending := isPending_of_settle h
    rw [isPending_report, bne_self_eq_false, Bool.and_false] at hpending
    cases hpending

end EventUnit

/-! ### The arbiter (R188) -/

section
variable {s : State}

theorem arbitrate_reply {r : Reply} (h : s.link.slot = some r) :
    arbitrate s = { s with link := { s.link with tx := some ⟨.reply, r.frame⟩ } } := by
  unfold arbitrate
  rw [h]

theorem arbitrate_notice (h : s.link.slot = none) {n : Notice} {rest : List Notice} (hq : s.events.queue = n :: rest) :
    arbitrate s = beginNotice n s := by
  unfold arbitrate
  rw [h, hq]

theorem arbitrate_record (h : s.link.slot = none) (hq : s.events.queue = []) {r : Record} (hr : s.records.offered = some r) :
    arbitrate s = beginRecord r s := by
  unfold arbitrate
  rw [h, hq, hr]

theorem arbitrate_nothing (h : s.link.slot = none) (hq : s.events.queue = []) (hr : s.records.offered = none) : arbitrate s = s := by
  unfold arbitrate
  rw [h, hq, hr]

theorem transmitStart_busy (h : s.link.tx ≠ none) : transmitStart s = s := if_pos (Option.isSome_iff_ne_none.2 h)

theorem transmitStart_free (h : s.link.tx = none) : transmitStart s = arbitrate (takeNext s) := by
  unfold transmitStart
  rw [h]
  rfl

end

theorem exec_transmitStart {s t : State} (h : transmitStart s = t) : exec .transmitStart s = .next t := congrArg Host.Outcome.next h

theorem exec_frameTransmitted {s t : State} (h : frameTransmitted s = t) : exec .frameTransmitted s = .next t :=
  congrArg Host.Outcome.next h

/-- Settles O53. -/
theorem transmitStartOrder : Obligations.TransmitStartOrder := by
  intro s old sendOn replyFrame
  refine ⟨fun hbusy => exec_transmitStart (transmitStart_busy hbusy), fun r hfree hslot => exec_transmitStart ?reply, fun hfree hslot hbuffer => ?offers,
    fun f rest hfree hslot hbuffer => ?request⟩
  case reply =>
    rw [transmitStart_free hfree, takeNext_of_slot hslot, arbitrate_reply hslot]
    rfl
  case offers =>
    have hstart : exec .transmitStart s = .next (arbitrate s) :=
      exec_transmitStart (by rw [transmitStart_free hfree, takeNext_of_empty hbuffer])
    rw [hstart]
    refine ⟨fun hq hr => congrArg _ (arbitrate_nothing hslot hq hr), fun r hq hr => congrArg _ (arbitrate_record hslot hq hr),
      fun rest hq => congrArg _ (arbitrate_notice hslot hq), fun k rest hq => ?event⟩
    exact ⟨s.events.report k, congrArg _ (arbitrate_notice hslot hq), EventUnit.report_frame _ k, EventUnit.isPending_report _ k,
      EventUnit.report_count _ k, EventUnit.settle_report _ k true⟩
  case request =>
    intro u
    have hu : u.link.slot = some _ := takeRequest_slot f { s with link := { s.link with buffer := rest } }
    refine ⟨_, hu, exec_transmitStart ?_⟩
    rw [transmitStart_free hfree, takeNext_of_buffer hslot hbuffer, arbitrate_reply hu]
    rfl

/-! ### The end of a frame (R186, R188) -/

theorem beginNotice_buffer (n : Notice) (s : State) (buffer : List RequestFrame) :
    beginNotice n { s with link := { s.link with buffer := buffer } }
      = { beginNotice n s with link := { (beginNotice n s).link with buffer := buffer } } := by cases n <;> rfl

/-- The arbiter does not look at the waiting requests. -/
theorem arbitrate_buffer (s : State) (buffer : List RequestFrame) :
    arbitrate { s with link := { s.link with buffer := buffer } }
      = { arbitrate s with link := { (arbitrate s).link with buffer := buffer } } := by
  unfold arbitrate
  dsimp only
  split
  · rfl
  · split
    · exact beginNotice_buffer _ s buffer
    · rfl
    · rfl

section
variable {u : State}

theorem otherOffered_iff (s : State) : otherOffered s = true ↔ s.events.queue ≠ [] ∨ s.records.offered ≠ none := by
  simp only [otherOffered, Bool.or_eq_true, Bool.not_eq_true', List.isEmpty_eq_false_iff, Option.isSome_iff_ne_none]

/-- With no request to take, or no room for its reply, nothing more happens. -/
theorem takeAtFrameEnd_none (h : u.link.slot ≠ none ∨ u.link.buffer = []) : takeAtFrameEnd u = u := by
  have hnext : takeNext u = u := by
    cases hslot : u.link.slot with
    | some r => exact takeNext_of_slot hslot
    | none => exact takeNext_of_empty (h.resolve_left (not_not.2 hslot))
  have hno : ¬(u.link.slot.isNone && !u.link.buffer.isEmpty && otherOffered u) = true := by
    rcases h with h | h
    · simp [h]
    · simp [h]
  unfold takeAtFrameEnd
  rw [if_neg hno, hnext]

section
variable {g : RequestFrame} {rest : List RequestFrame} (hslot : u.link.slot = none) (hbuffer : u.link.buffer = g :: rest)
include hslot hbuffer

theorem takeAtFrameEnd_alone (h : otherOffered u = false) : takeAtFrameEnd u = takeRequest g { u with link := { u.link with buffer := rest } } := by
  unfold takeAtFrameEnd
  rw [h, Bool.and_false, if_neg Bool.false_ne_true, takeNext_of_buffer hslot hbuffer]

/-- Where a notice or a record is offered, the request is taken before the arbiter chooses or after it: the free choice of log 8. -/
theorem takeAtFrameEnd_offered (h : otherOffered u = true) (htx : u.link.tx = none) :
    let e := { u with link := { u.link with buffer := [] }, free := u.free + 1 }
    ∃ x : State, (x = e ∨ transmitStart e = x)
      ∧ takeAtFrameEnd u = takeRequest g { x with link := { x.link with buffer := rest } } := by
  intro e
  let t : State := { u with free := u.free + 1 }
  have htake : takeAtFrameEnd u = takeNext (if freeBool u.free 0 then t else arbitrate t) := by
    unfold takeAtFrameEnd
    rw [hslot, hbuffer, h]
    rfl
  rw [htake]
  split
  · exact ⟨e, .inl rfl, takeNext_of_buffer (s := t) hslot hbuffer⟩
  · have hlink := arbitrate_link t
    have hslot' : (arbitrate t).link.slot = none := (congrArg LinkPort.slot hlink).trans hslot
    have hbuffer' : (arbitrate t).link.buffer = g :: rest := (congrArg LinkPort.buffer hlink).trans hbuffer
    refine ⟨arbitrate e, .inr ?_, ?_⟩
    · rw [transmitStart_free (s := e) htx, takeNext_of_empty (s := e) rfl]
    · rw [takeNext_of_buffer hslot' hbuffer', show arbitrate e = _ from arbitrate_buffer t []]

end

end

theorem frameTransmitted_some {s : State} {f : TxFrame} (h : s.link.tx = some f) : frameTransmitted s = takeAtFrameEnd (frameSent f s) := by
  unfold frameTransmitted
  rw [h]

theorem frameSent_reply {s : State} {f : TxFrame} (h : f.owner = .reply) {r : Reply} (hr : s.link.slot = some r) :
    frameSent f s = replySent r s := by
  unfold frameSent
  rw [h, hr]

theorem frameSent_notice {s : State} {f : TxFrame} (h : f.owner = .notice) : frameSent f s = noticeSent s := by
  unfold frameSent
  rw [h]

theorem frameSent_record {s : State} {f : TxFrame} (h : f.owner = .record) : frameSent f s = recordSent s := by
  unfold frameSent
  rw [h]

theorem changeSpeed_eq (v : Fin 4) (s : State) : changeSpeed v s =
    { s with link := { s.link with speed := v, rx := if v = s.link.speed then s.link.rx else none } } := by
  unfold changeSpeed
  by_cases h : s.link.speed = v
  · rw [if_pos h, if_pos h.symm, ← h]
  · rw [if_neg h, if_neg (Ne.symm h)]

/-- Settles O54. -/
theorem frameTransmittedOutcome : Obligations.FrameTransmittedOutcome := by
  intro s free gone offered ends
  have hends {f : TxFrame} {u : State} (hf : s.link.tx = some f) (hsent : frameSent f s = u) (htx : u.link.tx = none) : ends u := by
    have hexec : exec .frameTransmitted s = .next (takeAtFrameEnd u) :=
      exec_frameTransmitted (by rw [frameTransmitted_some hf, hsent])
    refine ⟨fun h => hexec.trans (congrArg _ (takeAtFrameEnd_none h)), fun g rest hslot hbuffer => ⟨fun hno => ?_, fun hoffered => ?_⟩⟩
    · refine hexec.trans (congrArg _ (takeAtFrameEnd_alone hslot hbuffer (Bool.eq_false_iff.2 fun h => hno ?_)))
      exact (otherOffered_iff u).1 h
    · obtain ⟨x, hx, htake⟩ := takeAtFrameEnd_offered hslot hbuffer ((otherOffered_iff u).2 hoffered) htx
      exact ⟨x, hx.imp id exec_transmitStart, hexec.trans (congrArg _ htake)⟩
  refine ⟨fun hfree => ?idle, fun f hf => ⟨fun h => hends hf (frameSent_record h) rfl, fun h => hends hf (frameSent_notice h) rfl,
    fun r h hr => ?reply⟩⟩
  case idle =>
    refine exec_frameTransmitted ?_
    unfold frameTransmitted
    rw [hfree]
  case reply =>
    intro u
    have hsent := frameSent_reply h hr
    refine ⟨fun ha => hends hf (hsent.trans ?nothing) rfl, fun v ha => hends hf (hsent.trans ?speed) rfl, fun ha => ?linkReset⟩
    case nothing =>
      unfold replySent
      rw [ha]
      rfl
    case speed =>
      unfold replySent
      rw [ha]
      exact changeSpeed_eq v u
    case linkReset =>
      have hbuffer : (linkReset .request u).link.buffer = [] := by rw [linkReset_link]; rfl
      have hreset : replySent r s = linkReset .request u := by
        unfold replySent
        rw [ha]
        rfl
      refine ⟨exec_frameTransmitted ?_, hbuffer⟩
      rw [frameTransmitted_some hf, hsent, hreset, takeAtFrameEnd_none (.inr hbuffer)]

end Sys2Proof.Machine
end
